-- ==== Sys2Proof/Word.lean ====
section
/-! DEFINITION. The words, the key slots and the error names of the DES cascade engine. Spec: 00_scope.md R4,
section 5.1; 30_encoding.md R73; 60_exceptions.md R171. -/

namespace Sys2Proof

/-- A data block or a key segment: 64 bits (00_scope.md R4). -/
abbrev Block := BitVec 64

/-- A round key: 48 bits (00_scope.md R4). -/
abbrev RoundKey := BitVec 48

/-- A half-block of the cipher: 32 bits (00_scope.md R4). -/
abbrev Half := BitVec 32

/-- A half of the reduced key register: 28 bits (00_scope.md R4). -/
abbrev KeyHalf := BitVec 28

/-- A character cell: "its 16-bit code-unit value" (40_bitcodec.md R96). -/
abbrev CharCell := BitVec 16

/-- A hex digit cell of the output buffer: 8 bits (44_hexencoder.md R156). -/
abbrev DigitCell := BitVec 8

/-- A command word: exactly 32 bits (30_encoding.md R71). -/
abbrev CmdWord := BitVec 32

/-- The three key slots; there is no slot 0 (30_encoding.md R73). -/
inductive KeySel where
  | key1
  | key2
  | key3
  deriving DecidableEq, Repr

/-- What `ERRCODE` can hold: exactly nine values (60_exceptions.md R171, 93_implementation_defined.md U5). -/
inductive ErrCode where
  /-- 0, no error pending. -/
  | none
  /-- 1, `E_ILLOP`: the opcode is not assigned. -/
  | illop
  /-- 2, `E_RSV`: a zero field or bits 63:32 of the written value are not 0. -/
  | rsv
  /-- 3, `E_KSEL`: `PACKK` with key slot 0. -/
  | ksel
  /-- 4, `E_RANGE`: `HEXO` beyond the output buffer. -/
  | range
  /-- 5, `E_NOKEY`: `ENCR` with no schedule. -/
  | nokey
  /-- 6, `E_LEN`: a length above the capacity. -/
  | len
  /-- 7, `E_BUSY`: a host write while a command is in flight. -/
  | busy
  /-- 8, `E_ADDR`: an unmapped or read-only target. -/
  | addr
  deriving DecidableEq, Repr

/-- `ceil4(n) = (n + 3) div 4`, on natural numbers (00_scope.md section 5.1). -/
def ceil4 (n : Nat) : Nat := (n + 3) / 4

end Sys2Proof
end

