-- ==== Sys2Proof/Machine/HostTypes.lean ====
section
/-! DEFINITION. The vocabulary of the host interface: address spaces, registers, the host's moves and the turns of an
execution (00_scope.md R9; 10_state.md section 3; 20_memory.md R50 to R56). -/

namespace Sys2Proof.Machine

/-- The five buffers (20_memory.md R51); the sixth space, the register numbers, has its own moves. -/
inductive Space where
  /-- Plaintext characters, 16-bit cells (10_state.md R31). -/
  | dmem
  /-- The characters of one key, 16-bit cells (10_state.md R32). -/
  | kmem (k : KeySel)
  /-- Hex digit characters, 8-bit cells (10_state.md R33). -/
  | omem
  deriving DecidableEq, Repr

/-- The registers of the map of 10_state.md section 3. -/
inductive RegName where
  | cmd
  | status
  | errcode
  | dlen
  | klen (k : KeySel)
  | olen
  | blk
  | seg
  | cap
  | rk (i : Fin 16)
  deriving DecidableEq, Repr

/-- The host's "exactly four moves" (20_memory.md R50). -/
inductive HostMove where
  /-- `v = x[n]` (R53). -/
  | regRead (n : Nat)
  /-- `x[n] <- v` (R54); with `n = 0x00` a command issue (R57). -/
  | regWrite (n : Nat) (v : BitVec 64)
  /-- `v = MemRead(S, i)` (R55). -/
  | memRead (S : Space) (i : Nat)
  /-- `MemWrite(S, i, v)` (R56). A value for `OMEM` is refused whatever it is, so one width serves. -/
  | memWrite (S : Space) (i : Nat) (v : CharCell)
  deriving DecidableEq, Repr

/-- One turn of an execution: "one interleaving of the host's moves ... with the engine's completion steps"
(20_memory.md R63), and reset, the host's one other way to act on the engine (R50). -/
inductive Turn where
  /-- The host makes its next move. -/
  | host (m : HostMove)
  /-- The engine moves: it completes the command in flight, or is idle. -/
  | engine
  /-- The engine is reset (70_reset_and_hazards.md R190). -/
  | reset
  deriving DecidableEq, Repr

end Sys2Proof.Machine
end

