-- ==== Sys2Proof/Config.lean ====
section
/-! DEFINITION. What is fixed when an engine is built (00_scope.md R5, R6; 10_state.md R36) and the free draws
(93_implementation_defined.md U7). The machine's rules are written against the record `Tables`, not against literals
(93_implementation_defined.md U3); the published entries stand in Machine/Tables.lean. -/

namespace Sys2Proof

/-- The seven replaceable constant tables (00_scope.md R6), each entry a bit number in DES numbering, counted from 1 at
the most significant end (R7, R8). -/
structure Tables where
  /-- Permuted choice 1: 56 positions of a 64-bit segment (41_keyscheduler.md R102). -/
  pc1 : Vector Nat 56
  /-- Permuted choice 2: 48 positions of the 56-bit `C || D` (41_keyscheduler.md R105). -/
  pc2 : Vector Nat 48
  /-- Initial permutation (42_blockcipher.md R117). -/
  ip : Vector Nat 64
  /-- Final permutation (42_blockcipher.md R119). -/
  fp : Vector Nat 64
  /-- Expansion: 48 positions of a 32-bit half (42_blockcipher.md R121). -/
  e : Vector Nat 48
  /-- Round permutation (42_blockcipher.md R125). -/
  p : Vector Nat 32
  /-- Eight boxes of four rows of sixteen entries (42_blockcipher.md R123, R124). -/
  sbox : Vector (Vector (Vector (BitVec 4) 16) 4) 8
  deriving DecidableEq, Repr

/-- "a list `T[1..m]` of numbers in `1..n`" (00_scope.md R8). -/
abbrev tableInRange {m : Nat} (n : Nat) (t : Vector Nat m) : Prop := ∀ x ∈ t.toList, 1 ≤ x ∧ x ≤ n

/-- The configuration of an engine: the two capacities and the tables (00_scope.md R5, R6). -/
structure Config where
  /-- `MAXD`, the number of cells of `DMEM`. -/
  maxd : Nat
  /-- `MAXK`, the number of cells of each key buffer. -/
  maxk : Nat
  tables : Tables
  deriving DecidableEq, Repr

/-- A configuration the spec allows: `1 <= MAXD <= 262144`, `1 <= MAXK <= 262144` (00_scope.md R5) and every table
entry a bit number of its input (R8). -/
abbrev Config.wf (c : Config) : Prop :=
  (1 ≤ c.maxd ∧ c.maxd ≤ 262144) ∧ (1 ≤ c.maxk ∧ c.maxk ≤ 262144) ∧
    tableInRange 64 c.tables.pc1 ∧ tableInRange 56 c.tables.pc2 ∧ tableInRange 64 c.tables.ip ∧
    tableInRange 64 c.tables.fp ∧ tableInRange 32 c.tables.e ∧ tableInRange 32 c.tables.p

/-- Free value: the "unspecified 64-bit value" of a host read of `BLK`, `SEG`, `OLEN` or `RK[i]` while `BUSY = 1`
(20_memory.md R53, 93_implementation_defined.md U7), one for each draw. Log entry 7. Safe: nothing constrains it. -/
opaque Config.freeRegister : Nat → BitVec 64

/-- Free value: the "unspecified 8-bit value" of a host read of `OMEM` while `BUSY = 1` (20_memory.md R55,
93_implementation_defined.md U7), one for each draw. Log entry 7. Safe: nothing constrains it. -/
opaque Config.freeCell : Nat → BitVec 8

end Sys2Proof
end

