-- ==== Sys2Proof/Machine/State.lean ====
section
/-! DEFINITION. The state of the DES cascade engine as plain data (10_state.md), its faults and refusals, and the state
after reset (10_state.md R38, R39; 70_reset_and_hazards.md R190). -/

namespace Sys2Proof.Machine

/-- A buffer: its written cells as (index, value) pairs in ONE canonical form, indices strictly rising. A cell that is
not listed is unwritten and holds no value (10_state.md R39). With `w = 8` this is a list of `Host.Cell`. -/
abbrev Cells (w : Nat) := List (Nat × BitVec w)

/-- Everything the spec gives the engine, its configuration, and three fields of the model's own. -/
structure State where
  /-- Configuration, carried along and never changed by a step (10_state.md R36; log entry 2). `CAP` is read from it. -/
  cfg : Config
  /-- The 64-bit block register (10_state.md R20). -/
  blk : Block
  /-- The 64-bit key segment register (10_state.md R21). -/
  seg : Block
  /-- The round key file (10_state.md R22). -/
  rk : Vector RoundKey 16
  /-- `STATUS` bit 0: a command is accepted and not completed (10_state.md R24). -/
  busy : Bool
  /-- `STATUS` bit 1: the last accepted command has completed (10_state.md R24). -/
  done : Bool
  /-- `STATUS` bit 2: an error is pending (10_state.md R24). -/
  err : Bool
  /-- `STATUS` bit 3: the round key file holds a schedule (10_state.md R24). -/
  rkv : Bool
  /-- The code of the first error raised since `ERR` was last 0 (10_state.md R25). -/
  errcode : ErrCode
  /-- Length of the plaintext in cells (10_state.md R26). -/
  dlen : BitVec 32
  /-- Length of key1 in cells; 0 is "not provided" (10_state.md R27). -/
  k1len : BitVec 32
  /-- Length of key2 in cells (10_state.md R27). -/
  k2len : BitVec 32
  /-- Length of key3 in cells (10_state.md R27). -/
  k3len : BitVec 32
  /-- The number of valid cells of `OMEM` (10_state.md R28). -/
  olen : BitVec 32
  /-- The hidden command latch `CMDL` (10_state.md R34). -/
  cmdl : CmdWord
  /-- The plaintext buffer (10_state.md R31). -/
  dmem : Cells 16
  /-- The buffer of key1 (10_state.md R32). -/
  k1mem : Cells 16
  /-- The buffer of key2 (10_state.md R32). -/
  k2mem : Cells 16
  /-- The buffer of key3 (10_state.md R32). -/
  k3mem : Cells 16
  /-- The output buffer (10_state.md R33). -/
  omem : List Host.Cell
  /-- MODEL: the turns to come, first one first (20_memory.md R63; log entry 1). -/
  agenda : List Turn
  /-- MODEL: the value the last host read returned, zero-extended (20_memory.md R53, R55; log entry 6). -/
  reply : BitVec 64
  /-- MODEL: how many free draws have been taken (93_implementation_defined.md U7; log entry 7). -/
  draws : Nat
  deriving DecidableEq, Repr

/-- Why a run stops. Both are safe: the model stops where it would have to invent a value. -/
inductive Fault where
  /-- A cell that was never written is read (10_state.md R39, 60_exceptions.md R179): raised by `PACKD`, `PACKK`,
  `CASC` and the host's buffer read. Safe. -/
  | unwrittenCell (S : Space) (i : Nat)
  /-- The engine reaches for a cell outside its buffer: no accepted command does (43_cascade.md R142, 44_hexencoder.md
  R157), so only a state outside `EngineInv` raises it, in `PACKD`, `PACKK`, `CASC`, `HEXO`. Safe (log entry 8). -/
  | outsideBuffer (S : Space) (i : Nat)
  deriving DecidableEq, Repr

/-- Why an instruction has no meaning. -/
inductive Refusal where
  /-- An instruction without a meaning in `exec`. Safe. -/
  | notModelled (mnemonic : String)
  /-- `BUSY = 1` with a latched word that does not decode: acceptance never leaves one (20_memory.md R57), so only a
  state outside `EngineInv` is refused, by `step`. Safe (log entry 8). -/
  | latchUndecodable (c : ErrCode)
  deriving DecidableEq, Repr

/-- The state of an instance at power-up: every register and flag 0, every buffer cell unwritten (10_state.md R38,
R39). `cmdl`, `agenda`, `reply` and `draws` have no reset value in the spec (log entries 1, 3, 6, 7). -/
def State.powerUp (c : Config) : State where
  cfg := c
  blk := 0
  seg := 0
  rk := Vector.replicate 16 0
  busy := false
  done := false
  err := false
  rkv := false
  errcode := .none
  dlen := 0
  k1len := 0
  k2len := 0
  k3len := 0
  olen := 0
  cmdl := 0
  dmem := []
  k1mem := []
  k2mem := []
  k3mem := []
  omem := []
  agenda := []
  reply := 0
  draws := 0

/-- The machine right after its first reset, as the instance of `defaultConfig` (log entry 4). -/
def State.reset : State := State.powerUp defaultConfig

end Sys2Proof.Machine
end

