-- ==== Sys2Proof/Machine/Ops.lean ====
section
/-! DEFINITION. The named operations over bits, buffers and registers, and the one operation of the error mechanism:
DES bit numbering, `permute` and `rol28` (00_scope.md R7, R8, section 5.1); cells (10_state.md R31 to R33, R39);
`raise Error` (60_exceptions.md R172) and the clearing of an error beside it (45_control.md R161). -/

namespace Sys2Proof.Machine

/-! ## Bits -/

/-- `dbit(n, v, i) = v[n - i]`: bit `i` counted from 1 at the most significant end (00_scope.md R7). -/
def dbit {n : Nat} (v : BitVec n) (i : Nat) : Bool := v.getLsbD (n - i)

/-- `permute(T, n, v)`: output bit `j`, counted from the most significant end, is input bit `T[j]` (00_scope.md R8). -/
def permute {m n : Nat} (t : Vector Nat m) (v : BitVec n) : BitVec m :=
  (BitVec.ofBoolListBE (t.toList.map (dbit v))).cast (by simp)

/-- `rol28(v, s)`: left rotation of a 28-bit half (00_scope.md section 5.1, 41_keyscheduler.md R104). -/
def rol28 (v : KeyHalf) (s : Nat) : KeyHalf := (v <<< s) ||| (v >>> (28 - s))

/-! ## Buffers -/

/-- The value of a cell; `none` is an unwritten cell (10_state.md R39). -/
def readCell {w : Nat} : Cells w → Nat → Option (BitVec w)
  | [], _ => none
  | (a, x) :: m, i => if a = i then some x else readCell m i

/-- Write a cell, keeping the indices strictly rising. -/
def writeCell {w : Nat} : Cells w → Nat → BitVec w → Cells w
  | [], i, v => [(i, v)]
  | (a, x) :: m, i, v =>
    if i < a then (i, v) :: (a, x) :: m
    else if i = a then (i, v) :: m
    else (a, x) :: writeCell m i v

/-- Write consecutive cells from index `i` on. -/
def writeCells {w : Nat} : Cells w → Nat → List (BitVec w) → Cells w
  | m, _, [] => m
  | m, i, v :: vs => writeCells (writeCell m i v) (i + 1) vs

/-- The canonical form of a buffer with `cap` cells: indices strictly rising and inside the buffer. -/
abbrev Memory.canonical {w : Nat} (cap : Nat) (m : Cells w) : Prop :=
  m.Pairwise (fun p q => p.1 < q.1) ∧ ∀ p ∈ m, p.1 < cap

/-- `OCAP = 16 * ceil4(MAXD)` (00_scope.md R5, 10_state.md R33). -/
def ocap (c : Config) : Nat := 16 * ceil4 c.maxd

/-- How many cells a buffer has (20_memory.md R51). -/
def spaceCap (c : Config) : Space → Nat
  | .dmem => c.maxd
  | .kmem _ => c.maxk
  | .omem => ocap c

/-- All five buffers are in canonical form. -/
abbrev Memory.wf (s : State) : Prop :=
  Memory.canonical s.cfg.maxd s.dmem ∧ Memory.canonical s.cfg.maxk s.k1mem ∧
    Memory.canonical s.cfg.maxk s.k2mem ∧ Memory.canonical s.cfg.maxk s.k3mem ∧
    Memory.canonical (ocap s.cfg) s.omem

/-- `KMEM(k)` (00_scope.md section 5.2). -/
def kmem (s : State) : KeySel → Cells 16
  | .key1 => s.k1mem
  | .key2 => s.k2mem
  | .key3 => s.k3mem

/-- `KLEN(k)` (10_state.md R27). -/
def klen (s : State) : KeySel → BitVec 32
  | .key1 => s.k1len
  | .key2 => s.k2len
  | .key3 => s.k3len

/-- A cell of any buffer as the host reads it, zero-extended (20_memory.md R55). -/
def readSpace (s : State) : Space → Nat → Option (BitVec 64)
  | .dmem, i => (readCell s.dmem i).map (·.setWidth 64)
  | .kmem k, i => (readCell (kmem s k) i).map (·.setWidth 64)
  | .omem, i => (readCell s.omem i).map (·.setWidth 64)

/-! ## Named updates of the state -/

/-- `BLK <- v`. -/
def State.setBlk (s : State) (v : Block) : State := { s with blk := v }

/-- `SEG <- v`; `RK` and `RKV` are not touched (20_memory.md R54 step 5). -/
def State.setSeg (s : State) (v : Block) : State := { s with seg := v }

/-- `RK[0..15] <- ks; RKV <- 1` (41_keyscheduler.md R101). -/
def State.setSchedule (s : State) (ks : Vector RoundKey 16) : State := { s with rk := ks, rkv := true }

/-- `OMEM` replaced. -/
def State.setOmem (s : State) (m : List Host.Cell) : State := { s with omem := m }

/-- `OLEN <- v`. -/
def State.setOlen (s : State) (v : BitVec 32) : State := { s with olen := v }

/-- `DLEN <- v`. -/
def State.setDlen (s : State) (v : BitVec 32) : State := { s with dlen := v }

/-- `KLEN(k) <- v`. -/
def State.setKlen (s : State) : KeySel → BitVec 32 → State
  | .key1, v => { s with k1len := v }
  | .key2, v => { s with k2len := v }
  | .key3, v => { s with k3len := v }

/-- `DMEM` replaced. -/
def State.setDmem (s : State) (m : Cells 16) : State := { s with dmem := m }

/-- `KMEM(k)` replaced. -/
def State.setKmem (s : State) : KeySel → Cells 16 → State
  | .key1, m => { s with k1mem := m }
  | .key2, m => { s with k2mem := m }
  | .key3, m => { s with k3mem := m }

/-- The value a host read returns (20_memory.md R53, R55). -/
def State.setReply (s : State) (v : BitVec 64) : State := { s with reply := v }

/-- One free draw has been taken (93_implementation_defined.md U7). -/
def State.draw (s : State) : State := { s with draws := s.draws + 1 }

/-- The turns still to come. -/
def State.setAgenda (s : State) (ts : List Turn) : State := { s with agenda := ts }

/-! ## The error mechanism -/

/-- `raise Error(code)`: the first error is recorded, a later one changes nothing; nothing else ever changes
(60_exceptions.md R172, R177). -/
def raiseError (c : ErrCode) (s : State) : State :=
  if s.err then s else { s with err := true, errcode := c }

/-- Every register to its reset value, the pending error cleared with them: the effect `CLR` (45_control.md R161) and
reset (70_reset_and_hazards.md R190) share. `BUSY`, `DONE`, the latch and the buffers are not part of it. -/
def clearRegisters (s : State) : State :=
  { s with
    blk := 0
    seg := 0
    rk := Vector.replicate 16 0
    rkv := false
    err := false
    errcode := .none
    dlen := 0
    k1len := 0
    k2len := 0
    k3len := 0
    olen := 0 }

/-! ## Outcomes -/

/-- What an operation of the engine answers inside one step: the state it leaves, or a model fault. -/
abbrev Result := Except Fault State

/-- The outcome of a step whose operation answered `r`. -/
def toOutcome : Result → Host.Outcome State Fault Refusal
  | .ok s => .next s
  | .error f => .fault f

end Sys2Proof.Machine
end

