-- ==== Sys2Proof/Syntax.lean ====
section
/-! DEFINITION. The command set: one constructor for each row of spec/opcode_table.json (30_encoding.md R70, R74). -/

namespace Sys2Proof

/-- A command with its fields. `idx` is the natural number `w[15:0]` "used as it stands" (30_encoding.md R72);
`ksel` is the key slot (R73). There are no other operands (R79). -/
inductive Instr where
  /-- Do nothing (45_control.md R160). -/
  | nop
  /-- Every register to its reset value, the pending error cleared (45_control.md R161). -/
  | clr
  /-- Pack plaintext chunk `idx` into `BLK` (40_bitcodec.md R93). -/
  | packd (idx : Nat)
  /-- Pack chunk `idx` of key `ksel` into `SEG` (40_bitcodec.md R94). -/
  | packk (ksel : KeySel) (idx : Nat)
  /-- Derive the round keys of `SEG` (41_keyscheduler.md R101). -/
  | ksched
  /-- Encrypt `BLK` under `RK` (42_blockcipher.md R116). -/
  | encr
  /-- Run the whole cascade (43_cascade.md R142). -/
  | casc
  /-- Write the hex digits of `BLK` as output block `idx` (44_hexencoder.md R157). -/
  | hexo (idx : Nat)
  deriving DecidableEq, Repr

end Sys2Proof
end

