-- ==== Sys2Proof/Machine/Flags.lean ====
section
/-! DEFINITION. The four status flags and the error code as registers (10_state.md R24, R25), what acceptance and
completion do to them (20_memory.md R57 step 4, R58), and the preconditions of R57 step 3. -/

namespace Sys2Proof.Machine

/-- `STATUS` as the host reads it: RKV, ERR, DONE, BUSY in bits 3 to 0 (10_state.md R24). -/
def statusWord (s : State) : BitVec 4 :=
  BitVec.ofBool s.rkv ++ BitVec.ofBool s.err ++ BitVec.ofBool s.done ++ BitVec.ofBool s.busy

/-- The number of an error code (60_exceptions.md R171). -/
def errNumber : ErrCode → BitVec 4
  | .none => 0
  | .illop => 1
  | .rsv => 2
  | .ksel => 3
  | .range => 4
  | .nokey => 5
  | .len => 6
  | .busy => 7
  | .addr => 8

/-- Completion of a command: `BUSY <- 0`, `DONE <- 1` (20_memory.md R58). -/
def finish (s : State) : State := { s with busy := false, done := true }

/-- Acceptance of a command: `CMDL <- v[31:0]`, `BUSY <- 1`, `DONE <- 0` (20_memory.md R57 step 4). -/
def accept (v : BitVec 64) (s : State) : State :=
  { s with cmdl := v.setWidth 32, busy := true, done := false }

/-- The precondition a command must meet at issue, and the error if it does not (20_memory.md R57 step 3): `ENCR` needs
a schedule, `HEXO` an output block inside `OMEM`, the other commands nothing. -/
def issueError (s : State) : Instr → Option ErrCode
  | .nop => none
  | .clr => none
  | .packd _ => none
  | .packk _ _ => none
  | .ksched => none
  | .encr => if s.rkv then none else some .nokey
  | .casc => none
  | .hexo idx => if idx < ceil4 s.cfg.maxd then none else some .range

end Sys2Proof.Machine
end

