-- ==== Sys2Proof/Machine/Operands.lean ====
section
/-! DEFINITION. How a command reaches its operands: the chunk `idx` of a character buffer (30_encoding.md R72;
40_bitcodec.md R91, R92, R95) and the sixteen cells of output block `idx` (44_hexencoder.md R157). -/

namespace Sys2Proof.Machine

/-- Read one character cell of buffer `S` with contents `m` and `cap` cells; an unwritten cell is a model fault
(10_state.md R39). -/
def fetchCell (S : Space) (m : Cells 16) (cap i : Nat) : Except Fault CharCell :=
  if i < cap then
    match readCell m i with
    | some c => .ok c
    | none => .error (.unwrittenCell S i)
  else .error (.outsideBuffer S i)

/-- Read `n` consecutive character cells from index `i` on. -/
def fetchCells (S : Space) (m : Cells 16) (cap : Nat) : Nat → Nat → Except Fault (List CharCell)
  | _, 0 => .ok []
  | i, n + 1 => do
    let c ← fetchCell S m cap i
    let cs ← fetchCells S m cap (i + 1) n
    return c :: cs

/-- How many cells chunk `idx` of a buffer of length `len` has: 4, fewer in the last chunk, 0 beyond it
(40_bitcodec.md R91, R92, R95). -/
def chunkSize (len idx : Nat) : Nat := min 4 (len - 4 * idx)

/-- The characters of chunk `idx`: exactly the cells `4*idx + j`, `j` in 0..3, that lie below the length
(40_bitcodec.md R91). -/
def fetchChunk (S : Space) (m : Cells 16) (cap len idx : Nat) : Except Fault (List CharCell) :=
  fetchCells S m cap (4 * idx) (chunkSize len idx)

/-- The characters of chunk `idx` of the plaintext (40_bitcodec.md R93). -/
def plainChunk (s : State) (idx : Nat) : Except Fault (List CharCell) :=
  fetchChunk .dmem s.dmem s.cfg.maxd s.dlen.toNat idx

/-- The characters of chunk `idx` of key `k` (40_bitcodec.md R94). -/
def keyChunk (s : State) (k : KeySel) (idx : Nat) : Except Fault (List CharCell) :=
  fetchChunk (.kmem k) (kmem s k) s.cfg.maxk (klen s k).toNat idx

/-- Store digit cells as output block `idx`, cells `16*idx` on; outside `OMEM` is no cell to write (44_hexencoder.md
R157, log entry 8). -/
def storeBlock (idx : Nat) (ds : List DigitCell) (s : State) : Result :=
  if idx < ceil4 s.cfg.maxd then .ok (s.setOmem (writeCells s.omem (16 * idx) ds))
  else .error (.outsideBuffer .omem (16 * idx))

end Sys2Proof.Machine
end

