-- ==== Sys2Proof/Machine/BitCodec.lean ====
section
/-! DEFINITION. BitCodec: the function `Pack` (40_bitcodec.md R90) and the commands `PACKD` (R93) and `PACKK` (R94). -/

namespace Sys2Proof.Machine

/-- The document's `encode(chunk: up to 4 characters) -> Block64`: slot `j` holds character `j`, a missing character is
16 zero bits, slot 0 is most significant (40_bitcodec.md R90). -/
@[irreducible] def packChunk (cs : List CharCell) : Block :=
  (cs.getD 0 0#16 ++ cs.getD 1 0#16 ++ cs.getD 2 0#16 ++ cs.getD 3 0#16 : BitVec 64)

/-- `Pack(M, len, i)` over a string: chunk `i` of its characters (40_bitcodec.md R90, R92). -/
def packString (cs : List CharCell) (i : Nat) : Block := packChunk ((cs.drop (4 * i)).take 4)

/-- `BLK <- Pack(DMEM, DLEN, idx)` (40_bitcodec.md R93). -/
def packPlain (idx : Nat) (s : State) : Result := do
  let cs ← plainChunk s idx
  return s.setBlk (packChunk cs)

/-- `SEG <- Pack(KMEM(k), KLEN(k), idx)` (40_bitcodec.md R94). -/
def packKey (k : KeySel) (idx : Nat) (s : State) : Result := do
  let cs ← keyChunk s k idx
  return s.setSeg (packChunk cs)

/-- `PACKD idx` (40_bitcodec.md R93): every `idx` is legal, beyond the last chunk the result is 0 (R95). -/
def execPackd (idx : Nat) (s : State) : Host.Outcome State Fault Refusal :=
  toOutcome ((packPlain idx s).map finish)

/-- `PACKK ksel, idx` (40_bitcodec.md R94): `RK` and `RKV` are not changed. -/
def execPackk (k : KeySel) (idx : Nat) (s : State) : Host.Outcome State Fault Refusal :=
  toOutcome ((packKey k idx s).map finish)

end Sys2Proof.Machine
end

