-- ==== Sys2Proof/Machine/BlockCipher.lean ====
section
/-! DEFINITION. BlockCipher: the functions `Sbox` (42_blockcipher.md R123), `FeistelF` (R120) and `Encrypt` (R115), and
the command `ENCR` (R116). -/

namespace Sys2Proof.Machine

/-- The row of a 6-bit group: `2 * g[5] + g[0]` (42_blockcipher.md R123). -/
def sboxRow (g : BitVec 6) : Fin 4 := (g.extractLsb' 5 1 ++ g.extractLsb' 0 1 : BitVec 2).toFin

/-- The column of a 6-bit group: `g[4:1]` (42_blockcipher.md R123). -/
def sboxCol (g : BitVec 6) : Fin 16 := (g.extractLsb' 1 4).toFin

/-- `Sbox(n, g) = SBOX[n][row][col]`; box `n` of the spec's 1..8 is index `n - 1` here (42_blockcipher.md R123). -/
def sboxOut (t : Tables) (n : Fin 8) (g : BitVec 6) : BitVec 4 := t.sbox[n][sboxRow g][sboxCol g]

/-- The eight 6-bit groups of `x`, most significant first, each through its own box, the results concatenated in the
same order (42_blockcipher.md R120, R122). -/
def substitute (t : Tables) (x : BitVec 48) : Half :=
  (sboxOut t 0 (x.extractLsb' 42 6) ++ sboxOut t 1 (x.extractLsb' 36 6) ++
    sboxOut t 2 (x.extractLsb' 30 6) ++ sboxOut t 3 (x.extractLsb' 24 6) ++
    sboxOut t 4 (x.extractLsb' 18 6) ++ sboxOut t 5 (x.extractLsb' 12 6) ++
    sboxOut t 6 (x.extractLsb' 6 6) ++ sboxOut t 7 (x.extractLsb' 0 6) : BitVec 32)

/-- `FeistelF(r, k)`: expansion, exclusive-or with the round key, substitution, permutation (42_blockcipher.md R120). -/
def feistelF (t : Tables) (r : Half) (k : RoundKey) : Half :=
  permute t.p (substitute t (permute t.e r ^^^ k))

/-- The rounds, one for each round key in ascending order: `L <- R`, `R <- L ^ f`, both from the old halves
(42_blockcipher.md R118). -/
def feistelRounds (t : Tables) : List RoundKey → Half → Half → Half × Half
  | [], l, r => (l, r)
  | k :: ks, l, r => feistelRounds t ks r (l ^^^ feistelF t r k)

/-- `Encrypt(blk, rk)`: IP, sixteen rounds, then FP of `R16 || L16` (42_blockcipher.md R115, R117, R119;
90_conflicts.md C1). -/
@[irreducible] def encrypt (t : Tables) (blk : Block) (rk : Vector RoundKey 16) : Block :=
  let v := permute t.ip blk
  let h := feistelRounds t rk.toList (v.extractLsb' 32 32) (v.extractLsb' 0 32)
  permute t.fp (h.2 ++ h.1)

/-- `BLK <- Encrypt(BLK, RK)` (42_blockcipher.md R116). -/
def encryptBlock (s : State) : State := s.setBlk (encrypt s.cfg.tables s.blk s.rk)

/-- `ENCR` (42_blockcipher.md R116); that a schedule exists was checked at issue (20_memory.md R57 step 3). -/
def execEncr (s : State) : Host.Outcome State Fault Refusal := .next (finish (encryptBlock s))

end Sys2Proof.Machine
end

