-- ==== Sys2Proof/Machine/HexEncoder.lean ====
section
/-! DEFINITION. HexEncoder: the functions `Digit`, `Code` and `Hex` (44_hexencoder.md R155, R156) and the command `HEXO`
(R157). -/

namespace Sys2Proof.Machine

/-- `Code(d)`: the ASCII code of the upper-case hex digit `d` (44_hexencoder.md R156). -/
def digitCode (d : BitVec 4) : DigitCell :=
  if d.toNat < 10 then BitVec.ofNat 8 (0x30 + d.toNat) else BitVec.ofNat 8 (0x41 + (d.toNat - 10))

/-- `Hex(blk)`: sixteen digit codes, digit `j` that of `blk[63 - 4*j : 60 - 4*j]` (44_hexencoder.md R155). -/
@[irreducible] def hexDigits (blk : Block) : List DigitCell :=
  (List.range 16).map fun j => digitCode (blk.extractLsb' (60 - 4 * j) 4)

/-- The sixteen cells of output block `idx` take the digits of `BLK` (44_hexencoder.md R157, R158). -/
def writeHex (idx : Nat) (s : State) : Result := storeBlock idx (hexDigits s.blk) s

/-- `HEXO idx`: the digits, then `OLEN <- 16 * (idx + 1)` (44_hexencoder.md R157). -/
def execHexo (idx : Nat) (s : State) : Host.Outcome State Fault Refusal :=
  toOutcome ((writeHex idx s).map fun t => finish (t.setOlen (BitVec.ofNat 32 (16 * (idx + 1)))))

end Sys2Proof.Machine
end

