-- ==== Sys2Proof/Machine/KeyScheduler.lean ====
section
/-! DEFINITION. KeyScheduler: the function `Derive` (41_keyscheduler.md R100, R102 to R105) and the command `KSCHED`
(R101). -/

namespace Sys2Proof.Machine

/-- The round keys from the halves `c` and `d` on, one for each remaining rotation: the rotation is cumulative and comes
before PC-2 (41_keyscheduler.md R100, R104). -/
def roundKeysFrom (t : Tables) : List Nat → KeyHalf → KeyHalf → List RoundKey
  | [], _, _ => []
  | n :: ns, c, d =>
    permute t.pc2 (rol28 c n ++ rol28 d n) :: roundKeysFrom t ns (rol28 c n) (rol28 d n)

/-- One round key for each rotation. -/
theorem roundKeysFrom_length (t : Tables) (ns : List Nat) (c d : KeyHalf) :
    (roundKeysFrom t ns c d).length = ns.length := by
  induction ns generalizing c d with
  | nil => rfl
  | cons n ns ih => simp [roundKeysFrom, ih]

/-- `C` after PC-1: the first 28 bits of the reduced key register (41_keyscheduler.md R100, R102). -/
def keyHalfC (t : Tables) (seg : Block) : KeyHalf := (permute t.pc1 seg).extractLsb' 28 28

/-- `D` after PC-1: the last 28 bits (41_keyscheduler.md R100, R102). -/
def keyHalfD (t : Tables) (seg : Block) : KeyHalf := (permute t.pc1 seg).extractLsb' 0 28

/-- `Derive(seg)`: sixteen 48-bit round keys (41_keyscheduler.md R100). -/
@[irreducible] def derive (t : Tables) (seg : Block) : Vector RoundKey 16 :=
  ⟨(roundKeysFrom t shifts (keyHalfC t seg) (keyHalfD t seg)).toArray, by
    simp [roundKeysFrom_length, shifts]⟩

/-- `RK[i] <- Derive(SEG)[i]`, `RKV <- 1` (41_keyscheduler.md R101). -/
def scheduleKeys (s : State) : State := s.setSchedule (derive s.cfg.tables s.seg)

/-- `KSCHED` (41_keyscheduler.md R101). -/
def execKsched (s : State) : Host.Outcome State Fault Refusal := .next (finish (scheduleKeys s))

end Sys2Proof.Machine
end

