-- ==== Sys2Proof/Machine/Cascade.lean ====
section
/-! DEFINITION. CascadeEncoder: the document's `encode` as the function `Cascade` on strings (43_cascade.md R140) and
the command `CASC` on the machine (R142). -/

namespace Sys2Proof.Machine

/-- The segments of a key string, in order; the empty string has none (40_bitcodec.md R92, 43_cascade.md R144). -/
def keySegments (key : List CharCell) : List Block := (List.range (ceil4 key.length)).map (packString key)

/-- One block through the segments, each a forward encryption (43_cascade.md R140, R146). -/
def encryptUnder (t : Tables) (segs : List Block) (blk : Block) : Block :=
  segs.foldl (fun st g => encrypt t st (derive t g)) blk

/-- `Cascade(D, n, K1, m1, K2, m2, K3, m3)`: the digits of every plaintext block, in order, each block taken through
key1's segments, then key2's, then key3's (43_cascade.md R140, R141). -/
def cascade (t : Tables) (data key1 key2 key3 : List CharCell) : List DigitCell :=
  (List.range (ceil4 data.length)).flatMap fun b =>
    hexDigits (encryptUnder t (keySegments key1 ++ keySegments key2 ++ keySegments key3) (packString data b))

/-- One segment of one key applied to `BLK`: `SEG`, `RK` and `RKV` change on the way (43_cascade.md R142). -/
def cascSegment (k : KeySel) (j : Nat) (s : State) : Result := do
  let s ← packKey k j s
  return encryptBlock (scheduleKeys s)

/-- All segments of one key, in order; none when its length is 0 (43_cascade.md R142, R144). -/
def cascKey (s : State) (k : KeySel) : Result :=
  (List.range (ceil4 (klen s k).toNat)).foldlM (fun s j => cascSegment k j s) s

/-- One plaintext block: packed, taken through key1, key2, key3, its digits stored (43_cascade.md R141, R142). -/
def cascBlock (s : State) (b : Nat) : Result := do
  let s ← packPlain b s
  let s ← [KeySel.key1, KeySel.key2, KeySel.key3].foldlM cascKey s
  writeHex b s

/-- The whole loop nest, then `OLEN <- 16 * ceil4(DLEN)` (43_cascade.md R142). -/
def runCascade (s : State) : Result := do
  let t ← (List.range (ceil4 s.dlen.toNat)).foldlM cascBlock s
  return t.setOlen (BitVec.ofNat 32 (16 * ceil4 s.dlen.toNat))

/-- `CASC` (43_cascade.md R142): one atomic completion. -/
def execCasc (s : State) : Host.Outcome State Fault Refusal := toOutcome ((runCascade s).map finish)

end Sys2Proof.Machine
end

