-- ==== Sys2Proof/Machine/Control.lean ====
section
/-! DEFINITION. The shell commands `NOP` (45_control.md R160) and `CLR` (R161). -/

namespace Sys2Proof.Machine

/-- `NOP`: nothing but the completion flags (45_control.md R160). -/
def execNop (s : State) : Host.Outcome State Fault Refusal := .next (finish s)

/-- `CLR`: every register to its reset value, the pending error cleared, the buffers untouched (45_control.md R161). -/
def execClr (s : State) : Host.Outcome State Fault Refusal := .next (finish (clearRegisters s))

end Sys2Proof.Machine
end

