-- ==== Sys2Proof/Machine/Dispatch.lean ====
section
/-! DEFINITION. The completion effect of each command: one arm a constructor, each one direct call of its meaning
(20_memory.md R58). -/

namespace Sys2Proof.Machine

def exec (i : Instr) (s : State) : Host.Outcome State Fault Refusal :=
  match i with
  | .nop => Sys2Proof.Machine.execNop s
  | .clr => Sys2Proof.Machine.execClr s
  | .packd idx => Sys2Proof.Machine.execPackd idx s
  | .packk ksel idx => Sys2Proof.Machine.execPackk ksel idx s
  | .ksched => Sys2Proof.Machine.execKsched s
  | .encr => Sys2Proof.Machine.execEncr s
  | .casc => Sys2Proof.Machine.execCasc s
  | .hexo idx => Sys2Proof.Machine.execHexo idx s

end Sys2Proof.Machine
end

