-- ==== Sys2Proof/WellFormed.lean ====
section
/-! DEFINITION. Which commands have an encoding: the index field is 16 bits wide (30_encoding.md R72). -/

namespace Sys2Proof

/-- `idx` is "an unsigned 16-bit number, 0 to 65535" (30_encoding.md R72); the other commands have no field to check,
and a key slot is one of three by its type (R73). -/
def WellFormed : Instr → Bool
  | .nop => true
  | .clr => true
  | .packd idx => decide (idx < 65536)
  | .packk _ idx => decide (idx < 65536)
  | .ksched => true
  | .encr => true
  | .casc => true
  | .hexo idx => decide (idx < 65536)

end Sys2Proof
end

