-- ==== Sys2Proof/Decode.lean ====
section
/-! DEFINITION. Decoding of the 64-bit value written to `CMD` (30_encoding.md R71 to R76), the encoder written from the
same tables, the match and mask of each row of the opcode map (R74), and the pseudo-instruction `STAGE` (R78). -/

namespace Sys2Proof

/-- The two bits of the `ksel` field (30_encoding.md R73). -/
def keySelBits : KeySel → BitVec 2
  | .key1 => 1#2
  | .key2 => 2#2
  | .key3 => 3#2

/-- The key slot a `ksel` field names; 0 names none (30_encoding.md R73). -/
def keySelOf (b : BitVec 2) : Option KeySel :=
  if b = 1#2 then some .key1
  else if b = 2#2 then some .key2
  else if b = 3#2 then some .key3
  else none

/-- Format N (30_encoding.md R71): bits 63:32 and 23:0 must be 0, R75 step 2. -/
def decodeN (i : Instr) (v : BitVec 64) : Except ErrCode Instr :=
  if v.extractLsb' 32 32 = 0#32 ∧ v.extractLsb' 0 24 = 0#24 then .ok i else .error .rsv

/-- Format I (30_encoding.md R71): bits 63:32 and 23:16 must be 0, R75 step 2. -/
def decodeI (mk : Nat → Instr) (v : BitVec 64) : Except ErrCode Instr :=
  if v.extractLsb' 32 32 = 0#32 ∧ v.extractLsb' 16 8 = 0#8 then .ok (mk (v.extractLsb' 0 16).toNat)
  else .error .rsv

/-- Format KI (30_encoding.md R71): bits 63:32 and 21:16 must be 0, then the key slot must exist, R75 steps 2 and 3. -/
def decodeKI (mk : KeySel → Nat → Instr) (v : BitVec 64) : Except ErrCode Instr :=
  if v.extractLsb' 32 32 = 0#32 ∧ v.extractLsb' 16 6 = 0#6 then
    match keySelOf (v.extractLsb' 22 2) with
    | some k => .ok (mk k (v.extractLsb' 0 16).toNat)
    | none => .error .ksel
  else .error .rsv

/-- Decoding: a total function from the value written to `CMD` to a command or an error code; the opcode is checked
first (30_encoding.md R75). -/
def decode (v : BitVec 64) : Except ErrCode Instr :=
  let op := v.extractLsb' 24 8
  if op = 0x00#8 then decodeN .nop v
  else if op = 0x01#8 then decodeN .clr v
  else if op = 0x10#8 then decodeI .packd v
  else if op = 0x11#8 then decodeKI .packk v
  else if op = 0x20#8 then decodeN .ksched v
  else if op = 0x30#8 then decodeN .encr v
  else if op = 0x40#8 then decodeN .casc v
  else if op = 0x50#8 then decodeI .hexo v
  else .error .illop

/-- A word of format N (30_encoding.md R71). -/
def wordN (op : BitVec 8) : CmdWord := op ++ 0#24

/-- A word of format I (30_encoding.md R71). -/
def wordI (op : BitVec 8) (idx : Nat) : CmdWord := op ++ 0#8 ++ BitVec.ofNat 16 idx

/-- A word of format KI (30_encoding.md R71). -/
def wordKI (op : BitVec 8) (k : KeySel) (idx : Nat) : CmdWord := op ++ keySelBits k ++ 0#6 ++ BitVec.ofNat 16 idx

/-- The word of a command (30_encoding.md R71, R74). -/
def encode : Instr → CmdWord
  | .nop => wordN 0x00#8
  | .clr => wordN 0x01#8
  | .packd idx => wordI 0x10#8 idx
  | .packk k idx => wordKI 0x11#8 k idx
  | .ksched => wordN 0x20#8
  | .encr => wordN 0x30#8
  | .casc => wordN 0x40#8
  | .hexo idx => wordI 0x50#8 idx

/-- The match value of a command's row of the opcode map (30_encoding.md R74). -/
def rowMatch : Instr → CmdWord
  | .nop => 0x00000000#32
  | .clr => 0x01000000#32
  | .packd _ => 0x10000000#32
  | .packk _ _ => 0x11000000#32
  | .ksched => 0x20000000#32
  | .encr => 0x30000000#32
  | .casc => 0x40000000#32
  | .hexo _ => 0x50000000#32

/-- The mask of a command's row of the opcode map (30_encoding.md R74). -/
def rowMask : Instr → CmdWord
  | .nop => 0xFFFFFFFF#32
  | .clr => 0xFFFFFFFF#32
  | .packd _ => 0xFFFF0000#32
  | .packk _ _ => 0xFF3F0000#32
  | .ksched => 0xFFFFFFFF#32
  | .encr => 0xFFFFFFFF#32
  | .casc => 0xFFFFFFFF#32
  | .hexo _ => 0xFFFF0000#32

/-- The value written to `CMD` for a word: "the word zero-extended to 64 bits" (95_test_vectors.md section 4.1). -/
def cmdValue (w : CmdWord) : BitVec 64 := w.setWidth 64

/-- `STAGE ksel, idx` expands to three commands and has no encoding of its own (30_encoding.md R78). -/
def stageExpansion (k : KeySel) (idx : Nat) : List Instr := [.packk k idx, .ksched, .encr]

/-- The command whose bits, numbered as spec/opcode_table.json numbers them, are the `nbits` low bits of `w`: every
command is one word in bits 31:0 of the written value, with nothing above it (30_encoding.md R71). -/
def decodeTableWord (nbits w : Nat) : Option Instr :=
  match decode (BitVec.ofNat 64 (w % 2 ^ nbits)) with
  | .ok i => some i
  | .error _ => none

end Sys2Proof
end

