-- ==== Sys2Proof/Machine/HostMoves.lean ====
section
/-! DEFINITION. What the world outside does to the engine: the four host moves with their checks in order
(20_memory.md R53 to R56, 60_exceptions.md R174), command issue (R57) and reset (70_reset_and_hazards.md R190, R191). -/

namespace Sys2Proof.Machine

/-- The register of a number; 0x0B to 0x0F and 0x20 and above are unmapped (10_state.md section 3). -/
def regOf (n : Nat) : Option RegName :=
  if n = 0x00 then some .cmd
  else if n = 0x01 then some .status
  else if n = 0x02 then some .errcode
  else if n = 0x03 then some .dlen
  else if n = 0x04 then some (.klen .key1)
  else if n = 0x05 then some (.klen .key2)
  else if n = 0x06 then some (.klen .key3)
  else if n = 0x07 then some .olen
  else if n = 0x08 then some .blk
  else if n = 0x09 then some .seg
  else if n = 0x0A then some .cap
  else if h : 0x10 ≤ n ∧ n ≤ 0x1F then some (.rk ⟨n - 0x10, by omega⟩)
  else none

/-- `CAP`: `MAXK` in bits 63:32, `MAXD` in bits 31:0 (10_state.md R29). -/
def capWord (c : Config) : BitVec 64 := (BitVec.ofNat 32 c.maxk ++ BitVec.ofNat 32 c.maxd : BitVec 64)

/-- A register's value, zero-extended; `CMD` reads 0 (20_memory.md R53, 10_state.md R41). -/
def regValue (s : State) : RegName → BitVec 64
  | .cmd => 0
  | .status => (statusWord s).setWidth 64
  | .errcode => (errNumber s.errcode).setWidth 64
  | .dlen => s.dlen.setWidth 64
  | .klen k => (klen s k).setWidth 64
  | .olen => s.olen.setWidth 64
  | .blk => s.blk
  | .seg => s.seg
  | .cap => capWord s.cfg
  | .rk i => s.rk[i].setWidth 64

/-- The registers a command in flight may be writing: while `BUSY = 1` a read of one returns an unspecified value
(20_memory.md R53). -/
def isEngineWritten : RegName → Bool
  | .cmd => false
  | .status => false
  | .errcode => false
  | .dlen => false
  | .klen _ => false
  | .olen => true
  | .blk => true
  | .seg => true
  | .cap => false
  | .rk _ => true

/-- Host register read `v = x[n]` (20_memory.md R53). -/
def hostRegRead (n : Nat) (s : State) : State :=
  match regOf n with
  | none => (raiseError .addr s).setReply 0
  | some r =>
    if s.busy && isEngineWritten r then (s.setReply (Config.freeRegister s.draws)).draw
    else s.setReply (regValue s r)

/-- Command issue, the write of `CMD` (20_memory.md R57): with an error pending only a `CLR` is accepted and anything
else is dropped; otherwise decode, check the precondition, accept. -/
def issue (v : BitVec 64) (s : State) : State :=
  match decode v with
  | .error c => if s.err then s else raiseError c s
  | .ok i =>
    if s.err then (if i = .clr then accept v s else s)
    else
      match issueError s i with
      | some c => raiseError c s
      | none => accept v s

/-- A write to a mapped register with no command in flight (20_memory.md R54 steps 2 to 5). -/
def writeReg (r : RegName) (v : BitVec 64) (s : State) : State :=
  match r with
  | .cmd => issue v s
  | .status => raiseError .addr s
  | .errcode => raiseError .addr s
  | .dlen => if v.toNat ≤ s.cfg.maxd then s.setDlen (v.setWidth 32) else raiseError .len s
  | .klen k => if v.toNat ≤ s.cfg.maxk then s.setKlen k (v.setWidth 32) else raiseError .len s
  | .olen => raiseError .addr s
  | .blk => s.setBlk v
  | .seg => s.setSeg v
  | .cap => raiseError .addr s
  | .rk _ => raiseError .addr s

/-- Host register write `x[n] <- v` (20_memory.md R54): `E_BUSY` first, whatever the register. -/
def hostRegWrite (n : Nat) (v : BitVec 64) (s : State) : State :=
  if s.busy then raiseError .busy s
  else
    match regOf n with
    | none => raiseError .addr s
    | some r => writeReg r v s

/-- Host buffer read `v = MemRead(S, i)` (20_memory.md R55): outside is `E_ADDR` and 0, an unwritten cell is the model
fault, `OMEM` while `BUSY = 1` is a free draw. -/
def hostMemRead (S : Space) (i : Nat) (s : State) : Result :=
  if i < spaceCap s.cfg S then
    match readSpace s S i with
    | none => .error (.unwrittenCell S i)
    | some v =>
      if s.busy && (S == .omem) then .ok (s.setReply ((Config.freeCell s.draws).setWidth 64)).draw
      else .ok (s.setReply v)
  else .ok ((raiseError .addr s).setReply 0)

/-- Host buffer write `MemWrite(S, i, v)` (20_memory.md R56): `E_BUSY`, then `E_ADDR` for `OMEM` or an index outside. -/
def hostMemWrite (S : Space) (i : Nat) (v : CharCell) (s : State) : State :=
  if s.busy then raiseError .busy s
  else
    match S with
    | .omem => raiseError .addr s
    | .dmem => if i < s.cfg.maxd then s.setDmem (writeCell s.dmem i v) else raiseError .addr s
    | .kmem k => if i < s.cfg.maxk then s.setKmem k (writeCell (kmem s k) i v) else raiseError .addr s

/-- One move of the host (20_memory.md R50). -/
def hostMove (m : HostMove) (s : State) : Result :=
  match m with
  | .regRead n => .ok (hostRegRead n s)
  | .regWrite n v => .ok (hostRegWrite n v s)
  | .memRead S i => hostMemRead S i s
  | .memWrite S i v => .ok (hostMemWrite S i v s)

/-- Reset (70_reset_and_hazards.md R190, R191): every register to its reset value; with a command in flight it is
abandoned and every cell of `OMEM` becomes unwritten; the other buffers stay. The latch is unspecified after it and
unobservable (10_state.md R38; log entry 3: it is left alone). -/
def resetEngine (s : State) : State :=
  { clearRegisters s with
    busy := false
    done := false
    omem := if s.busy then [] else s.omem }

end Sys2Proof.Machine
end

