-- ==== Sys2Proof/Machine/Turns.lean ====
section
/-! DEFINITION. The turns of an execution (20_memory.md R58, R63; 60_exceptions.md R181; 70_reset_and_hazards.md R190) and
where a command is placed to be the next one completed (20_memory.md R57 step 4, R65). -/

namespace Sys2Proof.Machine

/-- The engine's turn (20_memory.md R58): with `BUSY = 1` it completes the command in `CMDL`; with `BUSY = 0` "it is
simply idle, keeps all state" (60_exceptions.md R181). -/
def engineTurn (s : State) : Host.Outcome State Fault Refusal :=
  if s.busy then
    match decode (cmdValue s.cmdl) with
    | .ok i => exec i s
    | .error c => .refused (.latchUndecodable c)
  else .next s

/-- One turn: the engine's, a move of the host, or a reset. -/
def takeTurn (t : Turn) (s : State) : Host.Outcome State Fault Refusal :=
  match t with
  | .engine => engineTurn s
  | .host m => toOutcome (hostMove m s)
  | .reset => .next (resetEngine s)

/-- `s` with the command word `w` accepted, as the next thing the engine completes: the engine fetches nothing, the
word it executes stands in `CMDL` (20_memory.md R65), so the latch, the two acceptance flags and the engine's turn are
all that is set (log entry 9). -/
def placeCommand (nbits w : Nat) (s : State) : State :=
  (accept (BitVec.ofNat 64 (w % 2 ^ nbits)) s).setAgenda (.engine :: s.agenda)

end Sys2Proof.Machine
end

