-- ==== Sys2Proof/Machine/Step.lean ====
section
/-! DEFINITION. One step of an execution: the next turn of the agenda, or the engine's when the agenda is empty
(20_memory.md R58, R63; 70_reset_and_hazards.md R199), and where a command is placed for the very next step. -/

namespace Sys2Proof.Machine

/-- One step: the first turn of the agenda is struck off and taken; an empty agenda leaves the engine to itself (log
entry 1). -/
def step (s : State) : Host.Outcome State Fault Refusal :=
  match s.agenda with
  | [] => engineTurn s
  | t :: ts => takeTurn t (s.setAgenda ts)

/-- `s` with the command whose `nbits` low bits are those of `w` placed for the very next step (log entry 9). -/
def State.withFetchWord (s : State) (nbits w : Nat) : State := placeCommand nbits w s

end Sys2Proof.Machine
end

