-- ==== Sys2Proof/Machine/Call.lean ====
section
/-! DEFINITION. The host's side of a call of `encode` (20_memory.md R60, 70_reset_and_hazards.md R192) and the notation
of 30_encoding.md R77 as turns, the expansion of `CASC` into component commands (43_cascade.md R143), and the execution
of a list of commands. -/

namespace Sys2Proof.Machine

/-- A line holding a command: the write of its word to `CMD`, the engine's completion, and the read of `STATUS` that
shows `BUSY = 0` (30_encoding.md R77). -/
def commandTurns (i : Instr) : List Turn :=
  [.host (.regWrite 0x00 (cmdValue (encode i))), .engine, .host (.regRead 0x01)]

/-- The writes of a string's characters into consecutive cells from index `i` on; from 0 it is the directive `WS`
(30_encoding.md R77). -/
def stringTurns (S : Space) : Nat → List CharCell → List Turn
  | _, [] => []
  | i, c :: cs => .host (.memWrite S i c) :: stringTurns S (i + 1) cs

/-- Load one string and its length register, by number (20_memory.md R60, phase "load"). -/
def loadTurns (S : Space) (lenReg : Nat) (cs : List CharCell) : List Turn :=
  stringTurns S 0 cs ++ [.host (.regWrite lenReg (BitVec.ofNat 64 cs.length))]

/-- One call of `encode(data, key1, key2, key3)` up to the end of its run (20_memory.md R60: load, issue, wait). -/
def callTurns (data key1 key2 key3 : List CharCell) : List Turn :=
  loadTurns .dmem 0x03 data ++ loadTurns (.kmem .key1) 0x04 key1 ++ loadTurns (.kmem .key2) 0x05 key2 ++
    loadTurns (.kmem .key3) 0x06 key3 ++ commandTurns .casc

/-- The result of a call at the end of its run: the string in `OMEM[0..OLEN-1]`; defined only with `ERR = 0` and every
one of these cells written (20_memory.md R60). -/
def callResult (s : State) : Option (List DigitCell) :=
  if !s.busy && s.done && !s.err then (List.range s.olen.toNat).mapM (readCell s.omem) else none

/-- Commands completed one after the other, each waited for. -/
def execAll : List Instr → State → Host.Outcome State Fault Refusal
  | [], s => .next s
  | i :: is, s =>
    match exec i s with
    | .next t => execAll is t
    | .fault f => .fault f
    | .refused r => .refused r

/-- The component commands of one key slot with `n` segments (43_cascade.md R143). -/
def keyCommands (k : KeySel) (n : Nat) : List Instr := (List.range n).flatMap (stageExpansion k)

/-- The component commands `CASC` is by definition the same as: for each block `PACKD`, the stages of key1, key2, key3,
then `HEXO` (43_cascade.md R143). -/
def cascCommands (s : State) : List Instr :=
  (List.range (ceil4 s.dlen.toNat)).flatMap fun b =>
    [.packd b] ++ keyCommands .key1 (ceil4 s.k1len.toNat) ++ keyCommands .key2 (ceil4 s.k2len.toNat) ++
      keyCommands .key3 (ceil4 s.k3len.toNat) ++ [.hexo b]

/-- Run the agenda to its end, one step a turn. -/
def runAgenda (s : State) : Host.Outcome State Fault Refusal :=
  Host.Core.run
    { State := State, Fault := Fault, Refusal := Refusal, step := step, reset := State.reset } s.agenda.length s

end Sys2Proof.Machine
end

