-- ==== Sys2Proof/Safety.lean ====
section
/-! DEFINITION. What claims are stated in: the invariant of the engine, the round key invariant (10_state.md R23), the
digit codes (44_hexencoder.md R156), a buffer that holds a string, which error a host move raises (60_exceptions.md
R174), and a step free of model faults (60_exceptions.md R179). -/

namespace Sys2Proof.Machine

/-- The length registers hold legal values (10_state.md R26, R27), `OLEN` counts whole blocks inside `OMEM` (R28). -/
abbrev LengthsLegal (s : State) : Prop :=
  s.dlen.toNat ≤ s.cfg.maxd ∧ s.k1len.toNat ≤ s.cfg.maxk ∧ s.k2len.toNat ≤ s.cfg.maxk ∧
    s.k3len.toNat ≤ s.cfg.maxk ∧ s.olen.toNat ≤ ocap s.cfg ∧ s.olen.toNat % 16 = 0

/-- "`BUSY` and `DONE` are never both 1" (10_state.md R24), and `ERRCODE` is 0 exactly when `ERR = 0` (R25). -/
abbrev FlagsConsistent (s : State) : Prop :=
  ¬(s.busy = true ∧ s.done = true) ∧ (s.errcode = .none ↔ s.err = false)

/-- What is latched while `BUSY = 1` decoded and met its precondition: all checks are made at issue, and nothing they
looked at changes before the completion (20_memory.md R57, R58). -/
def LatchAccepted (s : State) : Prop :=
  s.busy = true → ∃ i, decode (cmdValue s.cmdl) = .ok i ∧ issueError s i = none

/-- The invariant of the engine: it holds at power-up and every step keeps it. -/
structure EngineInv (s : State) : Prop where
  config : s.cfg.wf
  memory : Memory.wf s
  lengths : LengthsLegal s
  flags : FlagsConsistent s
  latch : LatchAccepted s

/-- "whenever `STATUS.RKV = 1`, there is a 64-bit value `s` with `RK[i] = Derive(s)[i]`" (10_state.md R23). -/
def ScheduleGenuine (s : State) : Prop := s.rkv = true → ∃ g : Block, s.rk = derive s.cfg.tables g

/-- Every written cell of `OMEM` holds one of the sixteen digit codes (44_hexencoder.md R156). -/
def OutputDigits (s : State) : Prop := ∀ p ∈ s.omem, ∃ d : BitVec 4, p.2 = digitCode d

/-- The first cells of a character buffer hold the string `cs`. -/
def Holds (m : Cells 16) (cs : List CharCell) : Prop := ∀ i, (h : i < cs.length) → readCell m i = some cs[i]

/-- The buffers and length registers hold the four strings of a call (20_memory.md R60, phase "load"). -/
structure Loaded (s : State) (data key1 key2 key3 : List CharCell) : Prop where
  dlen : s.dlen.toNat = data.length
  k1len : s.k1len.toNat = key1.length
  k2len : s.k2len.toNat = key2.length
  k3len : s.k3len.toNat = key3.length
  dmem : Holds s.dmem data
  k1mem : Holds s.k1mem key1
  k2mem : Holds s.k2mem key2
  k3mem : Holds s.k3mem key3

/-- A register number of the map of 10_state.md section 3. -/
def isMapped (n : Nat) : Bool := decide (n ≤ 0x0A) || (decide (0x10 ≤ n) && decide (n ≤ 0x1F))

/-- A register the host may write (10_state.md section 3): `CMD`, the four length registers, `BLK`, `SEG`. -/
def isHostWritable (n : Nat) : Bool :=
  decide (n = 0x00) || (decide (0x03 ≤ n) && decide (n ≤ 0x06)) || decide (n = 0x08) || decide (n = 0x09)

/-- A value above the capacity for a length register (20_memory.md R54 step 3). -/
def isOverlong (c : Config) (n : Nat) (v : BitVec 64) : Bool :=
  (decide (n = 0x03) && decide (c.maxd < v.toNat)) ||
    (decide (0x04 ≤ n) && decide (n ≤ 0x06) && decide (c.maxk < v.toNat))

/-- The error the issue of `v` raises: none while an error is pending, for the word is then accepted or dropped
(20_memory.md R57 steps 1 to 3). -/
def issueFailure (s : State) (v : BitVec 64) : Option ErrCode :=
  if s.err then none
  else
    match decode v with
    | .error c => some c
    | .ok i => issueError s i

/-- The one error a host move raises: "the first failing check in the order its rule gives" (60_exceptions.md R174). -/
def moveError (s : State) : HostMove → Option ErrCode
  | .regRead n => if isMapped n then none else some .addr
  | .regWrite n v =>
    if s.busy then some .busy
    else if !isHostWritable n then some .addr
    else if isOverlong s.cfg n v then some .len
    else if n = 0x00 then issueFailure s v
    else none
  | .memRead S i => if i < spaceCap s.cfg S then none else some .addr
  | .memWrite S i _ =>
    if s.busy then some .busy
    else if S = .omem then some .addr
    else if i < spaceCap s.cfg S then none
    else some .addr

/-- A host move that reads. -/
def isRead : HostMove → Bool
  | .regRead _ => true
  | .regWrite _ _ => false
  | .memRead _ _ => true
  | .memWrite _ _ _ => false

/-- `c_j` of the chunk `i` of a buffer of length `len`: its character, or 0 at and above the length (40_bitcodec.md
R90). -/
def slotValue (m : Cells 16) (len i j : Nat) : Nat :=
  if 4 * i + j < len then ((readCell m (4 * i + j)).getD 0).toNat else 0

/-- `c_0 * 2^48 + c_1 * 2^32 + c_2 * 2^16 + c_3` (40_bitcodec.md R90). -/
@[irreducible] def packValue (m : Cells 16) (len i : Nat) : Block :=
  BitVec.ofNat 64 (slotValue m len i 0 * 2 ^ 48 + slotValue m len i 1 * 2 ^ 32 + slotValue m len i 2 * 2 ^ 16 +
    slotValue m len i 3)

/-- The cells `Pack(M, len, i)` reads, "and no other cell" (40_bitcodec.md R91). -/
def isChunkCell (len i n : Nat) : Prop := 4 * i ≤ n ∧ n < 4 * i + 4 ∧ n < len

/-- Every cell of chunk `i` is inside the buffer and written (10_state.md R39). -/
def ChunkWritten (m : Cells 16) (cap len i : Nat) : Prop :=
  ∀ n, isChunkCell len i n → n < cap ∧ (readCell m n).isSome = true

/-- The total rotation after each round (41_keyscheduler.md R108). -/
def shiftTotals : Vector Nat 16 := #v[1, 2, 4, 6, 8, 10, 12, 14, 15, 17, 19, 21, 23, 25, 27, 28]

/-- It is the engine's turn: first on the agenda, or nothing is on it. -/
def engineIsNext (s : State) : Prop := s.agenda = [] ∨ s.agenda.head? = some .engine

/-- The command in flight, whose completion is the next thing to happen. -/
def completesNext (s : State) (i : Instr) : Prop :=
  s.busy = true ∧ engineIsNext s ∧ decode (cmdValue s.cmdl) = .ok i

/-- A step with no model fault (60_exceptions.md R179) and no refusal. -/
def SafeStep (s : State) : Prop := ∃ t, step s = .next t

/-- Two states no host can tell apart: they differ at most in the latch, and in that only while `BUSY = 0`
(10_state.md R34). -/
def SameButIdleLatch (s t : State) : Prop := { s with cmdl := t.cmdl } = t ∧ (s.busy = true → s.cmdl = t.cmdl)

end Sys2Proof.Machine
end

