-- ==== Sys2Proof/Certificates/Slice0/Obligations.lean ====
section
/-! DEFINITION. The statements for the provers. Each says which rule of spec/ it formalises; an equation for the next state
of a command is its completion and its frame at once: what the record does not name is unchanged. -/

open Sys2Proof Sys2Proof.Machine

/-! ## Encoding -/

/-- Words of 95_test_vectors.md section 4.1, written out from the formats of 30_encoding.md R71 and R74. -/
def Obligations.ReferenceWordsDecode : Prop :=
  decode 0x00000000 = .ok .nop ∧ decode 0x01000000 = .ok .clr ∧ decode 0x10000001 = .ok (.packd 1) ∧
    decode 0x1000FFFF = .ok (.packd 65535) ∧ decode 0x11400002 = .ok (.packk .key1 2) ∧
    decode 0x11800000 = .ok (.packk .key2 0) ∧ decode 0x11C00000 = .ok (.packk .key3 0) ∧
    decode 0x20000000 = .ok .ksched ∧ decode 0x30000000 = .ok .encr ∧ decode 0x40000000 = .ok .casc ∧
    decode 0x50000001 = .ok (.hexo 1)

/-- Decoding the word of a well-formed command gives it back with every operand (30_encoding.md R71 to R75). -/
def Obligations.DecodeOfEncode : Prop :=
  ∀ i : Instr, WellFormed i = true → decode (cmdValue (encode i)) = .ok i

/-- The words as numbers: `0x10000000 + idx` (40_bitcodec.md R93), `0x11000000 + ksel * 2^22 + idx` (R94),
`0x50000000 + idx` (44_hexencoder.md R157), and the constant words of format N (30_encoding.md R74). -/
def Obligations.WordValues : Prop :=
  (encode .nop).toNat = 0x00000000 ∧ (encode .clr).toNat = 0x01000000 ∧ (encode .ksched).toNat = 0x20000000 ∧
    (encode .encr).toNat = 0x30000000 ∧ (encode .casc).toNat = 0x40000000 ∧
    ∀ idx, idx < 65536 →
      (encode (.packd idx)).toNat = 0x10000000 + idx ∧ (encode (.hexo idx)).toNat = 0x50000000 + idx ∧
        (encode (.packk .key1 idx)).toNat = 0x11000000 + 1 * 2 ^ 22 + idx ∧
        (encode (.packk .key2 idx)).toNat = 0x11000000 + 2 * 2 ^ 22 + idx ∧
        (encode (.packk .key3 idx)).toNat = 0x11000000 + 3 * 2 ^ 22 + idx

/-- The opcode map: a word decodes to a command exactly when it matches the command's row under its mask and carries the
command's fields, a key slot among 1 to 3 (30_encoding.md R74). -/
def Obligations.OpcodeMapSelects : Prop :=
  ∀ w : CmdWord,
    (decode (cmdValue w) = .ok .nop ↔ w &&& 0xFFFFFFFF#32 = 0x00000000#32) ∧
    (decode (cmdValue w) = .ok .clr ↔ w &&& 0xFFFFFFFF#32 = 0x01000000#32) ∧
    (∀ idx, decode (cmdValue w) = .ok (.packd idx) ↔
      w &&& 0xFFFF0000#32 = 0x10000000#32 ∧ (w.extractLsb' 0 16).toNat = idx) ∧
    (∀ k idx, decode (cmdValue w) = .ok (.packk k idx) ↔
      w &&& 0xFF3F0000#32 = 0x11000000#32 ∧ w.extractLsb' 22 2 = keySelBits k ∧ (w.extractLsb' 0 16).toNat = idx) ∧
    (decode (cmdValue w) = .ok .ksched ↔ w &&& 0xFFFFFFFF#32 = 0x20000000#32) ∧
    (decode (cmdValue w) = .ok .encr ↔ w &&& 0xFFFFFFFF#32 = 0x30000000#32) ∧
    (decode (cmdValue w) = .ok .casc ↔ w &&& 0xFFFFFFFF#32 = 0x40000000#32) ∧
    (∀ idx, decode (cmdValue w) = .ok (.hexo idx) ↔
      w &&& 0xFFFF0000#32 = 0x50000000#32 ∧ (w.extractLsb' 0 16).toNat = idx)

/-- The checks of decoding in their order: unassigned opcode, then a bit that must be 0, then key slot 0, and otherwise
the command whose word the value is, with nothing above it (30_encoding.md R75). -/
def Obligations.DecodeChecksInOrder : Prop :=
  ∀ v : BitVec 64,
    let op := (v.extractLsb' 24 8).toNat
    let formatN := op = 0x00 ∨ op = 0x01 ∨ op = 0x20 ∨ op = 0x30 ∨ op = 0x40
    let formatI := op = 0x10 ∨ op = 0x50
    let formatKI := op = 0x11
    let reserved := v.extractLsb' 32 32 ≠ 0 ∨ (formatN ∧ v.extractLsb' 0 24 ≠ 0) ∨
      (formatI ∧ v.extractLsb' 16 8 ≠ 0) ∨ (formatKI ∧ v.extractLsb' 16 6 ≠ 0)
    (decode v = .error .illop ↔ ¬(formatN ∨ formatI ∨ formatKI)) ∧
    (decode v = .error .rsv ↔ (formatN ∨ formatI ∨ formatKI) ∧ reserved) ∧
    (decode v = .error .ksel ↔ formatKI ∧ ¬reserved ∧ v.extractLsb' 22 2 = 0) ∧
    (∀ c, decode v = .error c → c = .illop ∨ c = .rsv ∨ c = .ksel) ∧
    (∀ i, decode v = .ok i ↔ WellFormed i = true ∧ v = cmdValue (encode i))

/-! ## Steps and reset -/

/-- A step runs the decoded command: when the engine's turn comes with `BUSY = 1`, the step is `exec` of the command in
the latch (20_memory.md R58). Beside it a step only strikes the engine's turn off the agenda. -/
def Obligations.StepRunsLatchedCommand : Prop :=
  ∀ (s : State) (i : Instr) (ts : List Turn), s.busy = true → decode (cmdValue s.cmdl) = .ok i →
    (s.agenda = [] → step s = exec i s) ∧
      (s.agenda = .engine :: ts → step s = exec i { s with agenda := ts })

/-- A word placed by `withFetchWord` is what the very next step runs, from every state (log entry 9). -/
def Obligations.PlacedWordRunsNext : Prop :=
  ∀ (s : State) (w : Nat) (i : Instr), decodeTableWord 32 w = some i →
    step (s.withFetchWord 32 w) = exec i { s with cmdl := BitVec.ofNat 32 w, busy := true, done := false }

/-- The turns of an execution are taken in order, one a step, and an idle engine keeps all state (20_memory.md R63,
60_exceptions.md R181). -/
def Obligations.TurnsTakenInOrder : Prop :=
  ∀ (s : State) (ts : List Turn),
    (∀ m, s.agenda = .host m :: ts → step s = toOutcome (hostMove m { s with agenda := ts })) ∧
    (s.agenda = .reset :: ts → step s = .next (resetEngine { s with agenda := ts })) ∧
    (s.busy = false → s.agenda = .engine :: ts → step s = .next { s with agenda := ts }) ∧
    (s.busy = false → s.agenda = [] → step s = .next s)

/-- Reset: every register reads 0 but the constant `CAP`, at power-up every cell is unwritten, and a later reset leaves
the buffers as they are, except that with `BUSY = 1` every cell of `OMEM` becomes unwritten (10_state.md R38,
70_reset_and_hazards.md R190, R191). -/
def Obligations.ResetValues : Prop :=
  (∀ c : Config, ∀ r, r ≠ .cap → regValue (State.powerUp c) r = 0) ∧
  (∀ c : Config, c.wf → regValue (State.powerUp c) .cap = BitVec.ofNat 64 (c.maxk * 2 ^ 32 + c.maxd)) ∧
  (∀ (c : Config) S i, readSpace (State.powerUp c) S i = none) ∧
  (∀ s : State, ∀ r, r ≠ .cap → regValue (resetEngine s) r = 0) ∧
  (∀ s : State, regValue (resetEngine s) .cap = regValue s .cap) ∧
  (∀ (s : State) S i, S ≠ .omem → readSpace (resetEngine s) S i = readSpace s S i) ∧
  (∀ (s : State) i, s.busy = false → readSpace (resetEngine s) .omem i = readSpace s .omem i) ∧
  (∀ (s : State) i, s.busy = true → readSpace (resetEngine s) .omem i = none)

/-- The invariants hold at power-up of every instance the spec allows, `State.reset` among them. -/
def Obligations.InvariantsAtReset : Prop :=
  (∀ c : Config, c.wf → EngineInv (State.powerUp c)) ∧ EngineInv State.reset ∧
    (∀ c : Config, ScheduleGenuine (State.powerUp c) ∧ OutputDigits (State.powerUp c))

/-- Every step keeps the invariant: canonical buffers inside their capacity (10_state.md R31 to R33), legal lengths
(R26 to R28), consistent flags and error code (R24, R25), and a latch whose command decoded and met its precondition
(20_memory.md R57, R58). -/
def Obligations.StepKeepsInvariant : Prop :=
  ∀ s t : State, EngineInv s → step s = .next t → EngineInv t

/-- Every step keeps the invariant of the round key file (10_state.md R23). -/
def Obligations.StepKeepsScheduleGenuine : Prop :=
  ∀ s t : State, ScheduleGenuine s → step s = .next t → ScheduleGenuine t

/-- Every step keeps `OMEM` free of anything but digit codes (44_hexencoder.md R156). -/
def Obligations.StepKeepsOutputDigits : Prop :=
  ∀ s t : State, OutputDigits s → step s = .next t → OutputDigits t

/-- No step changes the configuration, and so none changes what `CAP` reads (10_state.md R29, R36). -/
def Obligations.StepKeepsConfiguration : Prop :=
  ∀ s t : State, step s = .next t → t.cfg = s.cfg ∧ regValue t .cap = regValue s .cap

/-! ## The commands -/

/-- `NOP` completes and changes nothing but `BUSY` and `DONE` (45_control.md R160). -/
def Obligations.NopCompletes : Prop :=
  ∀ s : State, exec .nop s = .next { s with busy := false, done := true }

/-- `CLR` completes; "the state equals the reset state of 10_state.md rule R38 except `DONE = 1` and the buffers"
(45_control.md R161), the latch and the model's own fields staying as they are. -/
def Obligations.ClrCompletes : Prop :=
  ∀ s : State, exec .clr s = .next { State.powerUp s.cfg with
    done := true
    dmem := s.dmem
    k1mem := s.k1mem
    k2mem := s.k2mem
    k3mem := s.k3mem
    omem := s.omem
    cmdl := s.cmdl
    agenda := s.agenda
    reply := s.reply
    draws := s.draws }

/-- `PACKD idx` completes when the cells of its chunk are written, and loads
`c_0 * 2^48 + c_1 * 2^32 + c_2 * 2^16 + c_3` into `BLK` (40_bitcodec.md R90, R93). -/
def Obligations.PackdLoadsChunk : Prop :=
  ∀ (s : State) (idx : Nat), ChunkWritten s.dmem s.cfg.maxd s.dlen.toNat idx →
    exec (.packd idx) s = .next { s with blk := packValue s.dmem s.dlen.toNat idx, busy := false, done := true }

/-- `PACKK ksel, idx` completes when the cells of its chunk are written, and loads the packed chunk into `SEG`; `RK` and
`RKV` are not changed (40_bitcodec.md R90, R94). -/
def Obligations.PackkLoadsChunk : Prop :=
  ∀ (s : State) (k : KeySel) (idx : Nat), ChunkWritten (kmem s k) s.cfg.maxk (klen s k).toNat idx →
    exec (.packk k idx) s =
      .next { s with seg := packValue (kmem s k) (klen s k).toNat idx, busy := false, done := true }

/-- A chunk at or beyond `ceil4(len)` packs to 0 "with no cell read and no error", whatever the buffers hold
(40_bitcodec.md R95). -/
def Obligations.PackBeyondStringIsZero : Prop :=
  ∀ (s : State) (idx : Nat),
    (ceil4 s.dlen.toNat ≤ idx → exec (.packd idx) s = .next { s with blk := 0, busy := false, done := true }) ∧
    (∀ k, ceil4 (klen s k).toNat ≤ idx →
      exec (.packk k idx) s = .next { s with seg := 0, busy := false, done := true })

/-- A pack that needs an unwritten cell is a model fault at such a cell (10_state.md R39, 93_implementation_defined.md
U6). -/
def Obligations.PackFaultsOnUnwrittenCell : Prop :=
  ∀ (s : State) (idx n : Nat),
    (s.dlen.toNat ≤ s.cfg.maxd → isChunkCell s.dlen.toNat idx n → readCell s.dmem n = none →
      ∃ n', isChunkCell s.dlen.toNat idx n' ∧ readCell s.dmem n' = none ∧
        exec (.packd idx) s = .fault (.unwrittenCell .dmem n')) ∧
    (∀ k, (klen s k).toNat ≤ s.cfg.maxk → isChunkCell (klen s k).toNat idx n → readCell (kmem s k) n = none →
      ∃ n', isChunkCell (klen s k).toNat idx n' ∧ readCell (kmem s k) n' = none ∧
        exec (.packk k idx) s = .fault (.unwrittenCell (.kmem k) n'))

/-- A pack reads the cells of its chunk below the length "and no other cell": with any other buffer that agrees on
those, it does the same (40_bitcodec.md R91). -/
def Obligations.PackReadsOnlyItsChunk : Prop :=
  ∀ (s : State) (m : Cells 16) (idx : Nat),
    ((∀ n, isChunkCell s.dlen.toNat idx n → readCell m n = readCell s.dmem n) → ∀ t,
      exec (.packd idx) s = .next t → exec (.packd idx) (s.setDmem m) = .next (t.setDmem m)) ∧
    (∀ k, (∀ n, isChunkCell (klen s k).toNat idx n → readCell m n = readCell (kmem s k) n) → ∀ t,
      exec (.packk k idx) s = .next t → exec (.packk k idx) (s.setKmem k m) = .next (t.setKmem k m))

/-- `KSCHED` completes, sets `RKV` and writes the sixteen round keys; key `i` is PC-2 of the two halves of PC-1, each
rotated left by the total of the shifts up to round `i` (41_keyscheduler.md R100 to R105, R108). -/
def Obligations.KschedDerivesRoundKeys : Prop :=
  ∀ s : State, ∃ rk : Vector RoundKey 16,
    exec .ksched s = .next { s with rk := rk, rkv := true, busy := false, done := true } ∧
    ∀ i : Fin 16, rk[i] = permute s.cfg.tables.pc2
      (((permute s.cfg.tables.pc1 s.seg).extractLsb' 28 28).rotateLeft shiftTotals[i] ++
        ((permute s.cfg.tables.pc1 s.seg).extractLsb' 0 28).rotateLeft shiftTotals[i])

/-- `ENCR` completes: the halves of IP, sixteen rounds `L_{i+1} = R_i`, `R_{i+1} = L_i ^ FeistelF(R_i, RK[i])` with the
round keys in ascending order, then FP of `R16 || L16`; only `BLK` changes (42_blockcipher.md R115 to R119). -/
def Obligations.EncrRunsSixteenRounds : Prop :=
  ∀ s : State, ∃ L R : Nat → Half,
    L 0 = (permute s.cfg.tables.ip s.blk).extractLsb' 32 32 ∧
    R 0 = (permute s.cfg.tables.ip s.blk).extractLsb' 0 32 ∧
    (∀ i : Fin 16, L (i + 1) = R i ∧ R (i + 1) = L i ^^^ feistelF s.cfg.tables (R i) s.rk[i]) ∧
    exec .encr s = .next { s with blk := permute s.cfg.tables.fp (R 16 ++ L 16), busy := false, done := true }

/-- `HEXO idx` completes for every block inside `OMEM`: cell `16*idx + j` takes the upper-case ASCII digit of
`BLK[63 - 4*j : 60 - 4*j]`, every other cell reads as before, `OLEN` is `16 * (idx + 1)`, and nothing else changes
(44_hexencoder.md R155 to R157). -/
def Obligations.HexoWritesDigits : Prop :=
  ∀ (s : State) (idx : Nat), idx < ceil4 s.cfg.maxd → ∃ om : List Host.Cell,
    exec (.hexo idx) s = .next { s with
      omem := om
      olen := BitVec.ofNat 32 (16 * (idx + 1))
      busy := false
      done := true } ∧
    (∀ j, j < 16 → ∀ d, d = s.blk.toNat / 2 ^ (60 - 4 * j) % 16 →
      readCell om (16 * idx + j) = some (BitVec.ofNat 8 (if d < 10 then 0x30 + d else 0x41 + (d - 10)))) ∧
    (∀ a, a < 16 * idx ∨ 16 * idx + 16 ≤ a → readCell om a = readCell s.omem a)

/-- A block outside `OMEM` is refused at issue with `E_RANGE` (20_memory.md R57 step 3); were such a command latched all
the same, which no acceptance does, its completion would stop by name (the model's choice, log entry 8). -/
def Obligations.HexoOutsideOutputBuffer : Prop :=
  ∀ (s : State) (idx : Nat), ceil4 s.cfg.maxd ≤ idx →
    (exec (.hexo idx) s = .fault (.outsideBuffer .omem (16 * idx))) ∧
    (idx < 65536 → s.busy = false → s.err = false →
      hostRegWrite 0x00 (cmdValue (encode (.hexo idx))) s = { s with err := true, errcode := .range })

/-- `STAGE ksel, idx`, the pseudo-instruction, completes when the cells of its chunk are written, and applies one key
segment to `BLK` (30_encoding.md R78, 43_cascade.md R140). -/
def Obligations.StageAppliesOneSegment : Prop :=
  ∀ (s : State) (k : KeySel) (idx : Nat), ChunkWritten (kmem s k) s.cfg.maxk (klen s k).toNat idx →
    ∀ g, g = packValue (kmem s k) (klen s k).toNat idx →
      execAll (stageExpansion k idx) s = .next { s with
        blk := encrypt s.cfg.tables s.blk (derive s.cfg.tables g)
        seg := g
        rk := derive s.cfg.tables g
        rkv := true
        busy := false
        done := true }

/-- `CASC` completes when the buffers hold the four strings, and leaves the document's result: the cells
`OMEM[0 .. 16*ceil4(DLEN) - 1]` hold `Cascade(...)`, every other cell reads as before, `OLEN` is `16 * ceil4(DLEN)`;
beside them only `BLK`, `SEG`, `RK`, `RKV` and the completion flags may change (43_cascade.md R140, R142). -/
def Obligations.CascComputesCascade : Prop :=
  ∀ (s : State) (data key1 key2 key3 : List CharCell), Loaded s data key1 key2 key3 → LengthsLegal s →
    ∃ t : State, exec .casc s = .next t ∧
      t = { s with
        blk := t.blk
        seg := t.seg
        rk := t.rk
        rkv := t.rkv
        omem := t.omem
        olen := BitVec.ofNat 32 (16 * ceil4 data.length)
        busy := false
        done := true } ∧
      (∀ j, (h : j < (cascade s.cfg.tables data key1 key2 key3).length) →
        readCell t.omem j = some (cascade s.cfg.tables data key1 key2 key3)[j]) ∧
      (∀ j, 16 * ceil4 data.length ≤ j → readCell t.omem j = readCell s.omem j)

/-- `CASC` is the same as its component commands one after the other, in every state with a plaintext, faults included
(43_cascade.md R143); with no plaintext the command sequence is empty, while `CASC` sets `OLEN` to 0. -/
def Obligations.CascEqualsComponentCommands : Prop :=
  ∀ s : State, (s.dlen ≠ 0 → exec .casc s = execAll (cascCommands s) s) ∧
    (s.dlen = 0 → cascCommands s = [] ∧ exec .casc s = .next { s with olen := 0, busy := false, done := true })

/-- The state `CASC` leaves, by case (43_cascade.md R151): no plaintext, only `OLEN` changes; no key, `BLK` is the last
packed block and `SEG`, `RK`, `RKV` stay; some key, `BLK` is the final state of the last block, `SEG` the last segment of
the last provided key, `RK` its schedule, `RKV = 1`; `OMEM` takes the digits of each final state, the cells at or above
the new `OLEN` keep theirs, and nothing else changes. -/
def Obligations.CascLeavesStateByCase : Prop :=
  (∀ s : State, s.dlen = 0 → exec .casc s = .next { s with olen := 0, busy := false, done := true }) ∧
  (∀ (s : State) (data key1 key2 key3 : List CharCell), Loaded s data key1 key2 key3 → LengthsLegal s → data ≠ [] →
    ∀ segs, segs = keySegments key1 ++ keySegments key2 ++ keySegments key3 →
    ∃ om, exec .casc s = .next { s with
        blk := encryptUnder s.cfg.tables segs (packString data (ceil4 data.length - 1))
        seg := segs.getLast?.getD s.seg
        rk := (segs.getLast?.map (derive s.cfg.tables)).getD s.rk
        rkv := segs.getLast?.isSome || s.rkv
        omem := om
        olen := BitVec.ofNat 32 (16 * ceil4 data.length)
        busy := false
        done := true } ∧
      (∀ b, b < ceil4 data.length → ∀ j, j < 16 → readCell om (16 * b + j) =
        (hexDigits (encryptUnder s.cfg.tables segs (packString data b)))[j]?) ∧
      (∀ a, 16 * ceil4 data.length ≤ a → readCell om a = readCell s.omem a))

/-- The result of `CASC` is a function of the plaintext and key cells below their lengths and of nothing else: two
states that agree on those leave the same string (43_cascade.md R150). -/
def Obligations.CascDependsOnInputsOnly : Prop :=
  ∀ s s' t : State, s'.cfg = s.cfg → s'.dlen = s.dlen → (∀ k, klen s' k = klen s k) →
    (∀ n, n < s.dlen.toNat → readCell s'.dmem n = readCell s.dmem n) →
    (∀ k n, n < (klen s k).toNat → readCell (kmem s' k) n = readCell (kmem s k) n) →
    exec .casc s = .next t →
    ∃ t', exec .casc s' = .next t' ∧ t'.olen = t.olen ∧
      ∀ j, j < 16 * ceil4 s.dlen.toNat → readCell t'.omem j = readCell t.omem j

/-- What each command leaves unchanged when it answers a next state: the configuration, the character buffers, the
latch and the model's own fields always; each register, flag and buffer unless the command is one the spec lets write
it (10_state.md R20 to R28, R31 to R33; 20_memory.md R58). -/
def Obligations.CommandFrame : Prop :=
  ∀ (i : Instr) (s t : State), exec i s = .next t →
    (t.cfg = s.cfg ∧ t.dmem = s.dmem ∧ t.k1mem = s.k1mem ∧ t.k2mem = s.k2mem ∧ t.k3mem = s.k3mem ∧
      t.cmdl = s.cmdl ∧ t.agenda = s.agenda ∧ t.reply = s.reply ∧ t.draws = s.draws) ∧
    (t.busy = false ∧ t.done = true) ∧
    (i ≠ .clr → t.err = s.err ∧ t.errcode = s.errcode ∧ t.dlen = s.dlen ∧ t.k1len = s.k1len ∧
      t.k2len = s.k2len ∧ t.k3len = s.k3len) ∧
    (i ≠ .clr → i ≠ .casc → i ≠ .encr → (∀ n, i ≠ .packd n) → t.blk = s.blk) ∧
    (i ≠ .clr → i ≠ .casc → (∀ k n, i ≠ .packk k n) → t.seg = s.seg) ∧
    (i ≠ .clr → i ≠ .casc → i ≠ .ksched → t.rk = s.rk ∧ t.rkv = s.rkv) ∧
    (i ≠ .clr → i ≠ .casc → (∀ n, i ≠ .hexo n) → t.olen = s.olen) ∧
    (∀ a, (i = .casc → 16 * ceil4 s.dlen.toNat ≤ a) →
      (∀ n, i = .hexo n → a < 16 * n ∨ 16 * n + 16 ≤ a) → readCell t.omem a = readCell s.omem a)

/-! ## The functions -/

/-- `permute`: output bit `j` is input bit `T[j]`, both counted from 1 at the most significant end, and bit `i` of an
`n`-bit value is `v[n - i]` (00_scope.md R7, R8). -/
def Obligations.PermuteReadsNamedBits : Prop :=
  ∀ (m n : Nat) (T : Vector Nat m) (v : BitVec n) (j : Nat) (h : 1 ≤ j ∧ j ≤ m),
    dbit (permute T v) j = dbit v (T[j - 1]'(by omega)) ∧ dbit v (T[j - 1]'(by omega)) = v.getLsbD (n - T[j - 1]'(by omega))

/-- The total rotations: round key `i` is PC-2 of the halves rotated by the sum of the shifts, the last by a full turn;
halves of all zeros or all ones give sixteen equal keys, among them those of segment 0 and, with the published
tables, of the all-one segment (41_keyscheduler.md R108). -/
def Obligations.TotalRotations : Prop :=
  (∀ i : Fin 16, shiftTotals[i] = (shifts.take (i + 1)).sum) ∧
  (∀ (T : Tables) (g : Block) (i : Fin 16), (derive T g)[i] =
    permute T.pc2 ((keyHalfC T g).rotateLeft shiftTotals[i] ++ (keyHalfD T g).rotateLeft shiftTotals[i])) ∧
  (∀ (T : Tables) (g : Block), (derive T g)[15] = permute T.pc2 (keyHalfC T g ++ keyHalfD T g)) ∧
  (∀ (T : Tables) (g : Block), (keyHalfC T g = 0 ∨ keyHalfC T g = BitVec.allOnes 28) →
    (keyHalfD T g = 0 ∨ keyHalfD T g = BitVec.allOnes 28) → ∀ i : Fin 16, (derive T g)[i] = (derive T g)[0]) ∧
  (∀ T : Tables, derive T 0 = Vector.replicate 16 0) ∧
  derive publishedTables (BitVec.allOnes 64) = Vector.replicate 16 (BitVec.allOnes 48)

/-- `Derive` ignores segment bits 0, 8, 16, 24, 32, 40, 48, 56: with the published PC-1 two segments that differ only
there have the same schedule (41_keyscheduler.md R106). -/
def Obligations.DeriveIgnoresParityBits : Prop :=
  ∀ (T : Tables) (g m : Block), T.pc1 = pc1Published →
    derive T (g ^^^ (m &&& 0x0101010101010101#64)) = derive T g

/-- The round function by groups: expansion, exclusive-or with the round key, the eight 6-bit groups from the most
significant end, each through its own box at row `2 * g[5] + g[0]` and column `g[4:1]`, the nibbles in the same order,
then P (42_blockcipher.md R120, R122, R123). -/
def Obligations.RoundFunctionByGroups : Prop :=
  ∀ (T : Tables) (r : Half) (k : RoundKey), ∃ y : Half, feistelF T r k = permute T.p y ∧
    ∀ (n : Fin 8) (row : Fin 4) (col : Fin 16) (g : BitVec 6),
      g = (permute T.e r ^^^ k).extractLsb' (42 - 6 * n) 6 →
      row.val = 2 * (g.getLsbD 5).toNat + (g.getLsbD 0).toNat → col.val = (g.extractLsb' 1 4).toNat →
      y.extractLsb' (28 - 4 * n) 4 = T.sbox[n][row][col]

/-- The final permutation is the inverse of the initial one, with the published tables (42_blockcipher.md R119). -/
def Obligations.FinalPermutationInvertsInitial : Prop :=
  ∀ (T : Tables) (x : Block), T.ip = ipPublished → T.fp = fpPublished →
    permute T.fp (permute T.ip x : Block) = x ∧ permute T.ip (permute T.fp x : Block) = x

/-- For any fixed round keys `Encrypt` is a bijection on 64-bit values, with the published IP and FP and whatever the
round function's own tables are (42_blockcipher.md R126). -/
def Obligations.EncryptIsBijective : Prop :=
  ∀ (T : Tables) (rk : Vector RoundKey 16), T.ip = ipPublished → T.fp = fpPublished →
    Function.Bijective fun b : Block => encrypt T b rk

/-- The output has `16 * ceil4(n)` characters, whatever the keys (43_cascade.md R149). -/
def Obligations.CascadeLength : Prop :=
  ∀ (T : Tables) (data key1 key2 key3 : List CharCell),
    (cascade T data key1 key2 key3).length = 16 * ceil4 data.length

/-- The result depends on the keys only through the ordered list of their segments; a key may stand in any slot, the
order of the provided keys unchanged; a key split at multiples of 4 characters across consecutive slots changes nothing
(43_cascade.md R147). -/
def Obligations.CascadeSeesSegmentListOnly : Prop :=
  (∀ (T : Tables) (data k1 k2 k3 j1 j2 j3 : List CharCell),
    keySegments k1 ++ keySegments k2 ++ keySegments k3 = keySegments j1 ++ keySegments j2 ++ keySegments j3 →
    cascade T data k1 k2 k3 = cascade T data j1 j2 j3) ∧
  (∀ (T : Tables) (data a b : List CharCell), cascade T data a b [] = cascade T data a [] b ∧
    cascade T data a b [] = cascade T data [] a b) ∧
  (∀ (T : Tables) (data a b c : List CharCell), a.length % 4 = 0 → b.length % 4 = 0 →
    cascade T data (a ++ b ++ c) [] [] = cascade T data a b c) ∧
  (∀ (T : Tables) (data a b k : List CharCell), a.length % 4 = 0 →
    cascade T data (a ++ b) k [] = cascade T data a b k ∧ cascade T data k (a ++ b) [] = cascade T data k a b)

/-- Blocks are independent: the sixteen digits of block `b` are those of its chunk alone under the same keys
(43_cascade.md R148). -/
def Obligations.CascadeBlocksIndependent : Prop :=
  ∀ (T : Tables) (data key1 key2 key3 : List CharCell) (b : Nat), b < ceil4 data.length →
    ((cascade T data key1 key2 key3).drop (16 * b)).take 16 =
      cascade T ((data.drop (4 * b)).take 4) key1 key2 key3

/-! ## The host's moves -/

/-- Host register read: unmapped numbers raise `E_ADDR` and read 0; while `BUSY = 1` a read of `OLEN`, `BLK`, `SEG` or
a round key is a free draw; every other read gives the value zero-extended; nothing else changes (20_memory.md R53,
10_state.md R24, R25, R29, R41). -/
def Obligations.RegisterReads : Prop :=
  ∀ s : State,
    (∀ n, (0x0B ≤ n ∧ n ≤ 0x0F) ∨ 0x20 ≤ n → hostRegRead n s =
      { s with err := true, errcode := if s.err then s.errcode else .addr, reply := 0 }) ∧
    (s.busy = true → ∀ n, n = 0x07 ∨ n = 0x08 ∨ n = 0x09 ∨ (0x10 ≤ n ∧ n ≤ 0x1F) → hostRegRead n s =
      { s with reply := Config.freeRegister s.draws, draws := s.draws + 1 }) ∧
    hostRegRead 0x00 s = { s with reply := 0 } ∧
    hostRegRead 0x01 s = { s with
      reply := BitVec.ofNat 64 (s.busy.toNat + 2 * s.done.toNat + 4 * s.err.toNat + 8 * s.rkv.toNat) } ∧
    hostRegRead 0x02 s = { s with reply := (errNumber s.errcode).setWidth 64 } ∧
    hostRegRead 0x03 s = { s with reply := s.dlen.setWidth 64 } ∧
    hostRegRead 0x04 s = { s with reply := s.k1len.setWidth 64 } ∧
    hostRegRead 0x05 s = { s with reply := s.k2len.setWidth 64 } ∧
    hostRegRead 0x06 s = { s with reply := s.k3len.setWidth 64 } ∧
    hostRegRead 0x0A s = { s with reply := BitVec.ofNat 32 s.cfg.maxk ++ BitVec.ofNat 32 s.cfg.maxd } ∧
    (s.busy = false →
      hostRegRead 0x07 s = { s with reply := s.olen.setWidth 64 } ∧
      hostRegRead 0x08 s = { s with reply := s.blk } ∧
      hostRegRead 0x09 s = { s with reply := s.seg } ∧
      ∀ i : Fin 16, hostRegRead (0x10 + i) s = { s with reply := s.rk[i].setWidth 64 })

/-- Host register write, in the order of its checks: busy, unmapped or read-only, over-long length, issue for `CMD`,
and otherwise the register takes the value, whether or not an error is pending (20_memory.md R54). -/
def Obligations.RegisterWrites : Prop :=
  ∀ (s : State) (v : BitVec 64),
    (s.busy = true → ∀ n, hostRegWrite n v s =
      { s with err := true, errcode := if s.err then s.errcode else .busy }) ∧
    (s.busy = false →
      (∀ n, n = 0x01 ∨ n = 0x02 ∨ n = 0x07 ∨ 0x0A ≤ n → hostRegWrite n v s =
        { s with err := true, errcode := if s.err then s.errcode else .addr }) ∧
      (s.cfg.maxd < v.toNat → hostRegWrite 0x03 v s =
        { s with err := true, errcode := if s.err then s.errcode else .len }) ∧
      (s.cfg.maxk < v.toNat → ∀ n, 0x04 ≤ n → n ≤ 0x06 → hostRegWrite n v s =
        { s with err := true, errcode := if s.err then s.errcode else .len }) ∧
      hostRegWrite 0x00 v s = issue v s ∧
      (v.toNat ≤ s.cfg.maxd → hostRegWrite 0x03 v s = { s with dlen := v.setWidth 32 }) ∧
      (v.toNat ≤ s.cfg.maxk → hostRegWrite 0x04 v s = { s with k1len := v.setWidth 32 } ∧
        hostRegWrite 0x05 v s = { s with k2len := v.setWidth 32 } ∧
        hostRegWrite 0x06 v s = { s with k3len := v.setWidth 32 }) ∧
      hostRegWrite 0x08 v s = { s with blk := v } ∧
      hostRegWrite 0x09 v s = { s with seg := v })

/-- Command issue with `BUSY = 0`: with an error pending only `CLR` is accepted and any other word is dropped; else a
word that does not decode, `ENCR` without a schedule and `HEXO` beyond the output buffer raise their error and nothing
else; every other command is accepted (20_memory.md R57). -/
def Obligations.CommandIssue : Prop :=
  ∀ (s : State) (v : BitVec 64), s.busy = false →
    (s.err = true → decode v ≠ .ok .clr → hostRegWrite 0x00 v s = s) ∧
    (s.err = true → decode v = .ok .clr →
      hostRegWrite 0x00 v s = { s with cmdl := v.extractLsb' 0 32, busy := true, done := false }) ∧
    (s.err = false → ∀ c, decode v = .error c → hostRegWrite 0x00 v s = { s with err := true, errcode := c }) ∧
    (s.err = false → decode v = .ok .encr → s.rkv = false →
      hostRegWrite 0x00 v s = { s with err := true, errcode := .nokey }) ∧
    (s.err = false → ∀ idx, decode v = .ok (.hexo idx) → ceil4 s.cfg.maxd ≤ idx →
      hostRegWrite 0x00 v s = { s with err := true, errcode := .range }) ∧
    (s.err = false → ∀ i, decode v = .ok i → (i = .encr → s.rkv = true) →
      (∀ idx, i = .hexo idx → idx < ceil4 s.cfg.maxd) →
      hostRegWrite 0x00 v s = { s with cmdl := v.extractLsb' 0 32, busy := true, done := false })

/-- Host buffer read: outside the buffer `E_ADDR` and 0, then the fault of an unwritten cell, then a free draw for
`OMEM` while `BUSY = 1`, otherwise the cell's value; nothing else changes (20_memory.md R55, 10_state.md R39). -/
def Obligations.BufferReads : Prop :=
  ∀ (s : State) (S : Space) (i : Nat),
    (spaceCap s.cfg S ≤ i → hostMemRead S i s =
      .ok { s with err := true, errcode := if s.err then s.errcode else .addr, reply := 0 }) ∧
    (i < spaceCap s.cfg S → readSpace s S i = none → hostMemRead S i s = .error (.unwrittenCell S i)) ∧
    (i < spaceCap s.cfg S → ∀ v, readSpace s S i = some v →
      (S = .omem → s.busy = true → hostMemRead S i s =
        .ok { s with reply := (Config.freeCell s.draws).setWidth 64, draws := s.draws + 1 }) ∧
      (S ≠ .omem ∨ s.busy = false → hostMemRead S i s = .ok { s with reply := v }))

/-- Host buffer write, in the order of its checks: busy, then `OMEM` or an index outside, and otherwise the one cell
takes the value and is from then on written, every other cell of every buffer and everything else staying as it was
(20_memory.md R56). -/
def Obligations.BufferWrites : Prop :=
  ∀ (s : State) (S : Space) (i : Nat) (v : CharCell),
    (s.busy = true → hostMemWrite S i v s =
      { s with err := true, errcode := if s.err then s.errcode else .busy }) ∧
    (s.busy = false → S = .omem ∨ spaceCap s.cfg S ≤ i → hostMemWrite S i v s =
      { s with err := true, errcode := if s.err then s.errcode else .addr }) ∧
    (s.busy = false → S ≠ .omem → i < spaceCap s.cfg S →
      readSpace (hostMemWrite S i v s) S i = some (v.setWidth 64) ∧
      (∀ S' i', (S' ≠ S ∨ i' ≠ i) → readSpace (hostMemWrite S i v s) S' i' = readSpace s S' i') ∧
      hostMemWrite S i v s = { s with
        dmem := (hostMemWrite S i v s).dmem
        k1mem := (hostMemWrite S i v s).k1mem
        k2mem := (hostMemWrite S i v s).k2mem
        k3mem := (hostMemWrite S i v s).k3mem })

/-- One host move raises at most one error, the first failing check in the order of its rule; raising it records the
code if no error was pending and has no other effect, a read that raises answering 0; and a move with no failing check
leaves `ERR` and `ERRCODE` alone (60_exceptions.md R171, R172, R174). -/
def Obligations.HostErrorsInOrder : Prop :=
  ∀ (s : State) (m : HostMove),
    (∀ c, moveError s m = some c → hostMove m s = .ok { s with
      err := true
      errcode := if s.err then s.errcode else c
      reply := if isRead m then 0 else s.reply }) ∧
    (moveError s m = none → ∀ t, hostMove m s = .ok t → t.err = s.err ∧ t.errcode = s.errcode)

/-- A command in flight is not disturbed: while `BUSY = 1` every host write raises `E_BUSY` and changes nothing else, a
read changes nothing of the engine but a possible error, and no host move ends the command. After any move it completes
as it would have without, or meets the same fault; `CLR` completes always and clears even the `E_BUSY` raised meanwhile;
and under the invariant every command completes, or meets an unwritten cell (20_memory.md R59). -/
def Obligations.CommandInFlightUndisturbed : Prop :=
  ∀ (s : State) (m : HostMove), s.busy = true →
    (isRead m = false → hostMove m s =
      .ok { s with err := true, errcode := if s.err then s.errcode else .busy }) ∧
    (∀ t, hostMove m s = .ok t → t.busy = true ∧ t.cmdl = s.cmdl ∧
      t = { s with err := t.err, errcode := t.errcode, reply := t.reply, draws := t.draws }) ∧
    (∀ t, completesNext s .clr → step s = .next t → t.err = false ∧ t.errcode = .none) ∧
    (∀ t i, hostMove m s = .ok t → completesNext s i →
      (∀ u, step s = .next u → u.busy = false ∧ u.done = true ∧ step t = .next { u with
        err := if i = .clr then false else t.err
        errcode := if i = .clr then .none else t.errcode
        reply := t.reply
        draws := t.draws }) ∧
      (∀ f, step s = .fault f → step t = .fault f) ∧
      (i = .clr → ∃ u, step t = .next u ∧ u.busy = false ∧ u.done = true ∧ u.err = false ∧ u.errcode = .none) ∧
      (EngineInv s → (∃ u, step t = .next u ∧ u.busy = false ∧ u.done = true) ∨
        ∃ S c, step t = .fault (.unwrittenCell S c) ∧ S ≠ .omem ∧ readSpace t S c = none))

/-- The flags change only as their table says: `BUSY` is set only by a write of `CMD` and cleared only by the engine's
completion or reset; `DONE` the other way round; `ERR` is set only by a host move that fails a check and cleared only
by the completion of `CLR` or reset; `RKV` is set only by the completion of `KSCHED` or of a `CASC` with a block and a
segment, and cleared only by that of `CLR` or reset (10_state.md R24). -/
def Obligations.FlagsChangeOnlyAsListed : Prop :=
  ∀ s t : State, step s = .next t →
    (s.busy = false → t.busy = true → ∃ v, s.agenda.head? = some (.host (.regWrite 0x00 v)) ∧ t.done = false) ∧
    (s.busy = true → t.busy = false → (∃ i, completesNext s i ∧ t.done = true) ∨ s.agenda.head? = some .reset) ∧
    (s.done = false → t.done = true → ∃ i, completesNext s i) ∧
    (s.done = true → t.done = false → (t.busy = true ∧ ∃ v, s.agenda.head? = some (.host (.regWrite 0x00 v))) ∨
      s.agenda.head? = some .reset) ∧
    (s.err = false → t.err = true → ∃ m c, s.agenda.head? = some (.host m) ∧ moveError s m = some c ∧ t.errcode = c) ∧
    (s.err = true → t.err = false → completesNext s .clr ∨ s.agenda.head? = some .reset) ∧
    (s.rkv = false → t.rkv = true → completesNext s .ksched ∨
      (completesNext s .casc ∧ s.dlen ≠ 0 ∧ ∃ k, klen s k ≠ 0)) ∧
    (s.rkv = true → t.rkv = false → completesNext s .clr ∨ s.agenda.head? = some .reset)

/-- The first error is sticky: while `ERR = 1` a step keeps `ERR` and `ERRCODE`, and no command but `CLR` is accepted,
unless `CLR` completes or the engine is reset (60_exceptions.md R178). -/
def Obligations.FirstErrorIsSticky : Prop :=
  ∀ s t : State, s.err = true → step s = .next t →
    ((t.err = true ∧ t.errcode = s.errcode) ∨
      (t.err = false ∧ t.errcode = .none ∧ (completesNext s .clr ∨ s.agenda.head? = some .reset))) ∧
    (s.busy = false → t.busy = true → decode (cmdValue t.cmdl) = .ok .clr)

/-- The round keys are written only by the completion of `KSCHED`, `CASC` or `CLR` and by reset: the host cannot write
one (10_state.md R22). -/
def Obligations.RoundKeysWrittenOnlyByEngine : Prop :=
  ∀ s t : State, step s = .next t → t.rk ≠ s.rk →
    completesNext s .ksched ∨ completesNext s .casc ∨ completesNext s .clr ∨ s.agenda.head? = some .reset

/-- The latch is unobservable while `BUSY = 0`: two states that differ only in an idle latch stay so, with equal
answers to the host, or stop the same way (10_state.md R34). -/
def Obligations.IdleLatchUnobservable : Prop :=
  ∀ s s' : State, SameButIdleLatch s s' →
    (∀ t, step s = .next t → ∃ t', step s' = .next t' ∧ SameButIdleLatch t t') ∧
    (∀ f, step s = .fault f → step s' = .fault f) ∧
    (∀ r, step s = .refused r → step s' = .refused r)

/-- Every accepted command completes: under the invariant a state with `BUSY = 1` whose engine is next either completes,
with `BUSY = 0` and `DONE = 1`, or meets an unwritten cell, the model fault a claim excludes; it is never refused and
never stops otherwise (20_memory.md R57, R58; 70_reset_and_hazards.md R199). -/
def Obligations.AcceptedCommandCompletes : Prop :=
  ∀ s : State, EngineInv s → s.busy = true → engineIsNext s →
    (∃ t, step s = .next t ∧ t.busy = false ∧ t.done = true) ∨
      (∃ S i, step s = .fault (.unwrittenCell S i) ∧ S ≠ .omem ∧ readSpace s S i = none)

/-- One call of `encode`: from any state with `BUSY = 0` and `ERR = 0`, whatever earlier calls left in it, loading the
four strings, issuing `CASC` and waiting ends with the document's result as the string of `OMEM[0 .. OLEN-1]`
(20_memory.md R60, 70_reset_and_hazards.md R192, R193). -/
def Obligations.CallReturnsCascade : Prop :=
  ∀ (s : State) (data key1 key2 key3 : List CharCell), s.cfg.wf → s.busy = false → s.err = false →
    data.length ≤ s.cfg.maxd → key1.length ≤ s.cfg.maxk → key2.length ≤ s.cfg.maxk → key3.length ≤ s.cfg.maxk →
    ∃ t, runAgenda { s with agenda := callTurns data key1 key2 key3 } = .next t ∧
      callResult t = some (cascade s.cfg.tables data key1 key2 key3)
end

