-- ==== Sys2Proof/Laws/Bits.lean ====
section
/-! SUPPORT. The laws of the bit operations: `permute` bit by bit, the rotation, the digits of a block. -/

namespace Sys2Proof.Machine

/-- In LSB-0 numbering bit `j` from the most significant end is bit `n - j` (00_scope.md R7). -/
theorem dbit_eq_getMsbD {n : Nat} (v : BitVec n) {j : Nat} (h1 : 1 ≤ j) (h2 : j ≤ n) : dbit v j = v.getMsbD (j - 1) := by
  simp only [dbit, BitVec.getMsbD]
  rw [show n - 1 - (j - 1) = n - j by omega]
  simp; omega

/-- Output bit `j` is input bit `T[j]` (00_scope.md R8), counted from 0. -/
theorem getMsbD_permute {m n : Nat} (t : Vector Nat m) (v : BitVec n) (j : Nat) (h : j < m) :
    (permute t v).getMsbD j = dbit v t[j] := by
  simp [permute, h]

/-- Two values with the same bits from the most significant end are equal. -/
theorem eq_of_getMsbD {m : Nat} {x y : BitVec m} (h : ∀ j, j < m → x.getMsbD j = y.getMsbD j) : x = y :=
  BitVec.eq_of_getMsbD_eq h

/-- `permute` only sees the bits its table names. -/
theorem permute_congr {m n : Nat} {t : Vector Nat m} {v w : BitVec n} (h : ∀ x ∈ t.toList, dbit v x = dbit w x) :
    permute t v = permute t w := by
  refine BitVec.eq_of_getMsbD_eq fun j hj => ?_
  rw [getMsbD_permute t v j hj, getMsbD_permute t w j hj]
  exact h _ (by simp)

/-- `rol28` is the left rotation of a 28-bit value. -/
theorem rol28_eq_rotateLeft (v : KeyHalf) {n : Nat} (h : n < 28) : rol28 v n = v.rotateLeft n := by
  simp [rol28, BitVec.rotateLeft, BitVec.rotateLeftAux, Nat.mod_eq_of_lt h]

@[simp] theorem hexDigits_length (b : Block) : (hexDigits b).length = 16 := by simp [hexDigits]

theorem hexDigits_getElem (b : Block) (j : Nat) (h : j < (hexDigits b).length) :
    (hexDigits b)[j] = digitCode (b.extractLsb' (60 - 4 * j) 4) := by simp [hexDigits]

/-- Every cell `Hex` yields is a digit code (44_hexencoder.md R156). -/
theorem mem_hexDigits {b : Block} {x : DigitCell} (h : x ∈ hexDigits b) : ∃ d : BitVec 4, x = digitCode d := by
  simp only [hexDigits, List.mem_map] at h
  obtain ⟨j, -, rfl⟩ := h
  exact ⟨_, rfl⟩

end Sys2Proof.Machine
end

