-- ==== Sys2Proof/Laws/State.lean ====
section
/-! SUPPORT. What each named update of the state does to each field: one lemma a field, so that no later proof unfolds
an update. -/

namespace Sys2Proof.Machine

variable (s : State)

/-! ### State.setBlk -/

@[simp] theorem State.setBlk_cfg (v : Block) : (s.setBlk v).cfg = s.cfg := rfl
@[simp] theorem State.setBlk_blk (v : Block) : (s.setBlk v).blk = v := rfl
@[simp] theorem State.setBlk_seg (v : Block) : (s.setBlk v).seg = s.seg := rfl
@[simp] theorem State.setBlk_rk (v : Block) : (s.setBlk v).rk = s.rk := rfl
@[simp] theorem State.setBlk_busy (v : Block) : (s.setBlk v).busy = s.busy := rfl
@[simp] theorem State.setBlk_done (v : Block) : (s.setBlk v).done = s.done := rfl
@[simp] theorem State.setBlk_err (v : Block) : (s.setBlk v).err = s.err := rfl
@[simp] theorem State.setBlk_rkv (v : Block) : (s.setBlk v).rkv = s.rkv := rfl
@[simp] theorem State.setBlk_errcode (v : Block) : (s.setBlk v).errcode = s.errcode := rfl
@[simp] theorem State.setBlk_dlen (v : Block) : (s.setBlk v).dlen = s.dlen := rfl
@[simp] theorem State.setBlk_k1len (v : Block) : (s.setBlk v).k1len = s.k1len := rfl
@[simp] theorem State.setBlk_k2len (v : Block) : (s.setBlk v).k2len = s.k2len := rfl
@[simp] theorem State.setBlk_k3len (v : Block) : (s.setBlk v).k3len = s.k3len := rfl
@[simp] theorem State.setBlk_olen (v : Block) : (s.setBlk v).olen = s.olen := rfl
@[simp] theorem State.setBlk_cmdl (v : Block) : (s.setBlk v).cmdl = s.cmdl := rfl
@[simp] theorem State.setBlk_dmem (v : Block) : (s.setBlk v).dmem = s.dmem := rfl
@[simp] theorem State.setBlk_k1mem (v : Block) : (s.setBlk v).k1mem = s.k1mem := rfl
@[simp] theorem State.setBlk_k2mem (v : Block) : (s.setBlk v).k2mem = s.k2mem := rfl
@[simp] theorem State.setBlk_k3mem (v : Block) : (s.setBlk v).k3mem = s.k3mem := rfl
@[simp] theorem State.setBlk_omem (v : Block) : (s.setBlk v).omem = s.omem := rfl
@[simp] theorem State.setBlk_agenda (v : Block) : (s.setBlk v).agenda = s.agenda := rfl
@[simp] theorem State.setBlk_reply (v : Block) : (s.setBlk v).reply = s.reply := rfl
@[simp] theorem State.setBlk_draws (v : Block) : (s.setBlk v).draws = s.draws := rfl

/-! ### State.setSeg -/

@[simp] theorem State.setSeg_cfg (v : Block) : (s.setSeg v).cfg = s.cfg := rfl
@[simp] theorem State.setSeg_blk (v : Block) : (s.setSeg v).blk = s.blk := rfl
@[simp] theorem State.setSeg_seg (v : Block) : (s.setSeg v).seg = v := rfl
@[simp] theorem State.setSeg_rk (v : Block) : (s.setSeg v).rk = s.rk := rfl
@[simp] theorem State.setSeg_busy (v : Block) : (s.setSeg v).busy = s.busy := rfl
@[simp] theorem State.setSeg_done (v : Block) : (s.setSeg v).done = s.done := rfl
@[simp] theorem State.setSeg_err (v : Block) : (s.setSeg v).err = s.err := rfl
@[simp] theorem State.setSeg_rkv (v : Block) : (s.setSeg v).rkv = s.rkv := rfl
@[simp] theorem State.setSeg_errcode (v : Block) : (s.setSeg v).errcode = s.errcode := rfl
@[simp] theorem State.setSeg_dlen (v : Block) : (s.setSeg v).dlen = s.dlen := rfl
@[simp] theorem State.setSeg_k1len (v : Block) : (s.setSeg v).k1len = s.k1len := rfl
@[simp] theorem State.setSeg_k2len (v : Block) : (s.setSeg v).k2len = s.k2len := rfl
@[simp] theorem State.setSeg_k3len (v : Block) : (s.setSeg v).k3len = s.k3len := rfl
@[simp] theorem State.setSeg_olen (v : Block) : (s.setSeg v).olen = s.olen := rfl
@[simp] theorem State.setSeg_cmdl (v : Block) : (s.setSeg v).cmdl = s.cmdl := rfl
@[simp] theorem State.setSeg_dmem (v : Block) : (s.setSeg v).dmem = s.dmem := rfl
@[simp] theorem State.setSeg_k1mem (v : Block) : (s.setSeg v).k1mem = s.k1mem := rfl
@[simp] theorem State.setSeg_k2mem (v : Block) : (s.setSeg v).k2mem = s.k2mem := rfl
@[simp] theorem State.setSeg_k3mem (v : Block) : (s.setSeg v).k3mem = s.k3mem := rfl
@[simp] theorem State.setSeg_omem (v : Block) : (s.setSeg v).omem = s.omem := rfl
@[simp] theorem State.setSeg_agenda (v : Block) : (s.setSeg v).agenda = s.agenda := rfl
@[simp] theorem State.setSeg_reply (v : Block) : (s.setSeg v).reply = s.reply := rfl
@[simp] theorem State.setSeg_draws (v : Block) : (s.setSeg v).draws = s.draws := rfl

/-! ### State.setSchedule -/

@[simp] theorem State.setSchedule_cfg (ks : Vector RoundKey 16) : (s.setSchedule ks).cfg = s.cfg := rfl
@[simp] theorem State.setSchedule_blk (ks : Vector RoundKey 16) : (s.setSchedule ks).blk = s.blk := rfl
@[simp] theorem State.setSchedule_seg (ks : Vector RoundKey 16) : (s.setSchedule ks).seg = s.seg := rfl
@[simp] theorem State.setSchedule_rk (ks : Vector RoundKey 16) : (s.setSchedule ks).rk = ks := rfl
@[simp] theorem State.setSchedule_busy (ks : Vector RoundKey 16) : (s.setSchedule ks).busy = s.busy := rfl
@[simp] theorem State.setSchedule_done (ks : Vector RoundKey 16) : (s.setSchedule ks).done = s.done := rfl
@[simp] theorem State.setSchedule_err (ks : Vector RoundKey 16) : (s.setSchedule ks).err = s.err := rfl
@[simp] theorem State.setSchedule_rkv (ks : Vector RoundKey 16) : (s.setSchedule ks).rkv = true := rfl
@[simp] theorem State.setSchedule_errcode (ks : Vector RoundKey 16) : (s.setSchedule ks).errcode = s.errcode := rfl
@[simp] theorem State.setSchedule_dlen (ks : Vector RoundKey 16) : (s.setSchedule ks).dlen = s.dlen := rfl
@[simp] theorem State.setSchedule_k1len (ks : Vector RoundKey 16) : (s.setSchedule ks).k1len = s.k1len := rfl
@[simp] theorem State.setSchedule_k2len (ks : Vector RoundKey 16) : (s.setSchedule ks).k2len = s.k2len := rfl
@[simp] theorem State.setSchedule_k3len (ks : Vector RoundKey 16) : (s.setSchedule ks).k3len = s.k3len := rfl
@[simp] theorem State.setSchedule_olen (ks : Vector RoundKey 16) : (s.setSchedule ks).olen = s.olen := rfl
@[simp] theorem State.setSchedule_cmdl (ks : Vector RoundKey 16) : (s.setSchedule ks).cmdl = s.cmdl := rfl
@[simp] theorem State.setSchedule_dmem (ks : Vector RoundKey 16) : (s.setSchedule ks).dmem = s.dmem := rfl
@[simp] theorem State.setSchedule_k1mem (ks : Vector RoundKey 16) : (s.setSchedule ks).k1mem = s.k1mem := rfl
@[simp] theorem State.setSchedule_k2mem (ks : Vector RoundKey 16) : (s.setSchedule ks).k2mem = s.k2mem := rfl
@[simp] theorem State.setSchedule_k3mem (ks : Vector RoundKey 16) : (s.setSchedule ks).k3mem = s.k3mem := rfl
@[simp] theorem State.setSchedule_omem (ks : Vector RoundKey 16) : (s.setSchedule ks).omem = s.omem := rfl
@[simp] theorem State.setSchedule_agenda (ks : Vector RoundKey 16) : (s.setSchedule ks).agenda = s.agenda := rfl
@[simp] theorem State.setSchedule_reply (ks : Vector RoundKey 16) : (s.setSchedule ks).reply = s.reply := rfl
@[simp] theorem State.setSchedule_draws (ks : Vector RoundKey 16) : (s.setSchedule ks).draws = s.draws := rfl

/-! ### State.setOmem -/

@[simp] theorem State.setOmem_cfg (m : List Host.Cell) : (s.setOmem m).cfg = s.cfg := rfl
@[simp] theorem State.setOmem_blk (m : List Host.Cell) : (s.setOmem m).blk = s.blk := rfl
@[simp] theorem State.setOmem_seg (m : List Host.Cell) : (s.setOmem m).seg = s.seg := rfl
@[simp] theorem State.setOmem_rk (m : List Host.Cell) : (s.setOmem m).rk = s.rk := rfl
@[simp] theorem State.setOmem_busy (m : List Host.Cell) : (s.setOmem m).busy = s.busy := rfl
@[simp] theorem State.setOmem_done (m : List Host.Cell) : (s.setOmem m).done = s.done := rfl
@[simp] theorem State.setOmem_err (m : List Host.Cell) : (s.setOmem m).err = s.err := rfl
@[simp] theorem State.setOmem_rkv (m : List Host.Cell) : (s.setOmem m).rkv = s.rkv := rfl
@[simp] theorem State.setOmem_errcode (m : List Host.Cell) : (s.setOmem m).errcode = s.errcode := rfl
@[simp] theorem State.setOmem_dlen (m : List Host.Cell) : (s.setOmem m).dlen = s.dlen := rfl
@[simp] theorem State.setOmem_k1len (m : List Host.Cell) : (s.setOmem m).k1len = s.k1len := rfl
@[simp] theorem State.setOmem_k2len (m : List Host.Cell) : (s.setOmem m).k2len = s.k2len := rfl
@[simp] theorem State.setOmem_k3len (m : List Host.Cell) : (s.setOmem m).k3len = s.k3len := rfl
@[simp] theorem State.setOmem_olen (m : List Host.Cell) : (s.setOmem m).olen = s.olen := rfl
@[simp] theorem State.setOmem_cmdl (m : List Host.Cell) : (s.setOmem m).cmdl = s.cmdl := rfl
@[simp] theorem State.setOmem_dmem (m : List Host.Cell) : (s.setOmem m).dmem = s.dmem := rfl
@[simp] theorem State.setOmem_k1mem (m : List Host.Cell) : (s.setOmem m).k1mem = s.k1mem := rfl
@[simp] theorem State.setOmem_k2mem (m : List Host.Cell) : (s.setOmem m).k2mem = s.k2mem := rfl
@[simp] theorem State.setOmem_k3mem (m : List Host.Cell) : (s.setOmem m).k3mem = s.k3mem := rfl
@[simp] theorem State.setOmem_omem (m : List Host.Cell) : (s.setOmem m).omem = m := rfl
@[simp] theorem State.setOmem_agenda (m : List Host.Cell) : (s.setOmem m).agenda = s.agenda := rfl
@[simp] theorem State.setOmem_reply (m : List Host.Cell) : (s.setOmem m).reply = s.reply := rfl
@[simp] theorem State.setOmem_draws (m : List Host.Cell) : (s.setOmem m).draws = s.draws := rfl

/-! ### State.setOlen -/

@[simp] theorem State.setOlen_cfg (v : BitVec 32) : (s.setOlen v).cfg = s.cfg := rfl
@[simp] theorem State.setOlen_blk (v : BitVec 32) : (s.setOlen v).blk = s.blk := rfl
@[simp] theorem State.setOlen_seg (v : BitVec 32) : (s.setOlen v).seg = s.seg := rfl
@[simp] theorem State.setOlen_rk (v : BitVec 32) : (s.setOlen v).rk = s.rk := rfl
@[simp] theorem State.setOlen_busy (v : BitVec 32) : (s.setOlen v).busy = s.busy := rfl
@[simp] theorem State.setOlen_done (v : BitVec 32) : (s.setOlen v).done = s.done := rfl
@[simp] theorem State.setOlen_err (v : BitVec 32) : (s.setOlen v).err = s.err := rfl
@[simp] theorem State.setOlen_rkv (v : BitVec 32) : (s.setOlen v).rkv = s.rkv := rfl
@[simp] theorem State.setOlen_errcode (v : BitVec 32) : (s.setOlen v).errcode = s.errcode := rfl
@[simp] theorem State.setOlen_dlen (v : BitVec 32) : (s.setOlen v).dlen = s.dlen := rfl
@[simp] theorem State.setOlen_k1len (v : BitVec 32) : (s.setOlen v).k1len = s.k1len := rfl
@[simp] theorem State.setOlen_k2len (v : BitVec 32) : (s.setOlen v).k2len = s.k2len := rfl
@[simp] theorem State.setOlen_k3len (v : BitVec 32) : (s.setOlen v).k3len = s.k3len := rfl
@[simp] theorem State.setOlen_olen (v : BitVec 32) : (s.setOlen v).olen = v := rfl
@[simp] theorem State.setOlen_cmdl (v : BitVec 32) : (s.setOlen v).cmdl = s.cmdl := rfl
@[simp] theorem State.setOlen_dmem (v : BitVec 32) : (s.setOlen v).dmem = s.dmem := rfl
@[simp] theorem State.setOlen_k1mem (v : BitVec 32) : (s.setOlen v).k1mem = s.k1mem := rfl
@[simp] theorem State.setOlen_k2mem (v : BitVec 32) : (s.setOlen v).k2mem = s.k2mem := rfl
@[simp] theorem State.setOlen_k3mem (v : BitVec 32) : (s.setOlen v).k3mem = s.k3mem := rfl
@[simp] theorem State.setOlen_omem (v : BitVec 32) : (s.setOlen v).omem = s.omem := rfl
@[simp] theorem State.setOlen_agenda (v : BitVec 32) : (s.setOlen v).agenda = s.agenda := rfl
@[simp] theorem State.setOlen_reply (v : BitVec 32) : (s.setOlen v).reply = s.reply := rfl
@[simp] theorem State.setOlen_draws (v : BitVec 32) : (s.setOlen v).draws = s.draws := rfl

/-! ### State.setDlen -/

@[simp] theorem State.setDlen_cfg (v : BitVec 32) : (s.setDlen v).cfg = s.cfg := rfl
@[simp] theorem State.setDlen_blk (v : BitVec 32) : (s.setDlen v).blk = s.blk := rfl
@[simp] theorem State.setDlen_seg (v : BitVec 32) : (s.setDlen v).seg = s.seg := rfl
@[simp] theorem State.setDlen_rk (v : BitVec 32) : (s.setDlen v).rk = s.rk := rfl
@[simp] theorem State.setDlen_busy (v : BitVec 32) : (s.setDlen v).busy = s.busy := rfl
@[simp] theorem State.setDlen_done (v : BitVec 32) : (s.setDlen v).done = s.done := rfl
@[simp] theorem State.setDlen_err (v : BitVec 32) : (s.setDlen v).err = s.err := rfl
@[simp] theorem State.setDlen_rkv (v : BitVec 32) : (s.setDlen v).rkv = s.rkv := rfl
@[simp] theorem State.setDlen_errcode (v : BitVec 32) : (s.setDlen v).errcode = s.errcode := rfl
@[simp] theorem State.setDlen_dlen (v : BitVec 32) : (s.setDlen v).dlen = v := rfl
@[simp] theorem State.setDlen_k1len (v : BitVec 32) : (s.setDlen v).k1len = s.k1len := rfl
@[simp] theorem State.setDlen_k2len (v : BitVec 32) : (s.setDlen v).k2len = s.k2len := rfl
@[simp] theorem State.setDlen_k3len (v : BitVec 32) : (s.setDlen v).k3len = s.k3len := rfl
@[simp] theorem State.setDlen_olen (v : BitVec 32) : (s.setDlen v).olen = s.olen := rfl
@[simp] theorem State.setDlen_cmdl (v : BitVec 32) : (s.setDlen v).cmdl = s.cmdl := rfl
@[simp] theorem State.setDlen_dmem (v : BitVec 32) : (s.setDlen v).dmem = s.dmem := rfl
@[simp] theorem State.setDlen_k1mem (v : BitVec 32) : (s.setDlen v).k1mem = s.k1mem := rfl
@[simp] theorem State.setDlen_k2mem (v : BitVec 32) : (s.setDlen v).k2mem = s.k2mem := rfl
@[simp] theorem State.setDlen_k3mem (v : BitVec 32) : (s.setDlen v).k3mem = s.k3mem := rfl
@[simp] theorem State.setDlen_omem (v : BitVec 32) : (s.setDlen v).omem = s.omem := rfl
@[simp] theorem State.setDlen_agenda (v : BitVec 32) : (s.setDlen v).agenda = s.agenda := rfl
@[simp] theorem State.setDlen_reply (v : BitVec 32) : (s.setDlen v).reply = s.reply := rfl
@[simp] theorem State.setDlen_draws (v : BitVec 32) : (s.setDlen v).draws = s.draws := rfl

/-! ### State.setDmem -/

@[simp] theorem State.setDmem_cfg (m : Cells 16) : (s.setDmem m).cfg = s.cfg := rfl
@[simp] theorem State.setDmem_blk (m : Cells 16) : (s.setDmem m).blk = s.blk := rfl
@[simp] theorem State.setDmem_seg (m : Cells 16) : (s.setDmem m).seg = s.seg := rfl
@[simp] theorem State.setDmem_rk (m : Cells 16) : (s.setDmem m).rk = s.rk := rfl
@[simp] theorem State.setDmem_busy (m : Cells 16) : (s.setDmem m).busy = s.busy := rfl
@[simp] theorem State.setDmem_done (m : Cells 16) : (s.setDmem m).done = s.done := rfl
@[simp] theorem State.setDmem_err (m : Cells 16) : (s.setDmem m).err = s.err := rfl
@[simp] theorem State.setDmem_rkv (m : Cells 16) : (s.setDmem m).rkv = s.rkv := rfl
@[simp] theorem State.setDmem_errcode (m : Cells 16) : (s.setDmem m).errcode = s.errcode := rfl
@[simp] theorem State.setDmem_dlen (m : Cells 16) : (s.setDmem m).dlen = s.dlen := rfl
@[simp] theorem State.setDmem_k1len (m : Cells 16) : (s.setDmem m).k1len = s.k1len := rfl
@[simp] theorem State.setDmem_k2len (m : Cells 16) : (s.setDmem m).k2len = s.k2len := rfl
@[simp] theorem State.setDmem_k3len (m : Cells 16) : (s.setDmem m).k3len = s.k3len := rfl
@[simp] theorem State.setDmem_olen (m : Cells 16) : (s.setDmem m).olen = s.olen := rfl
@[simp] theorem State.setDmem_cmdl (m : Cells 16) : (s.setDmem m).cmdl = s.cmdl := rfl
@[simp] theorem State.setDmem_dmem (m : Cells 16) : (s.setDmem m).dmem = m := rfl
@[simp] theorem State.setDmem_k1mem (m : Cells 16) : (s.setDmem m).k1mem = s.k1mem := rfl
@[simp] theorem State.setDmem_k2mem (m : Cells 16) : (s.setDmem m).k2mem = s.k2mem := rfl
@[simp] theorem State.setDmem_k3mem (m : Cells 16) : (s.setDmem m).k3mem = s.k3mem := rfl
@[simp] theorem State.setDmem_omem (m : Cells 16) : (s.setDmem m).omem = s.omem := rfl
@[simp] theorem State.setDmem_agenda (m : Cells 16) : (s.setDmem m).agenda = s.agenda := rfl
@[simp] theorem State.setDmem_reply (m : Cells 16) : (s.setDmem m).reply = s.reply := rfl
@[simp] theorem State.setDmem_draws (m : Cells 16) : (s.setDmem m).draws = s.draws := rfl

/-! ### State.setReply -/

@[simp] theorem State.setReply_cfg (v : BitVec 64) : (s.setReply v).cfg = s.cfg := rfl
@[simp] theorem State.setReply_blk (v : BitVec 64) : (s.setReply v).blk = s.blk := rfl
@[simp] theorem State.setReply_seg (v : BitVec 64) : (s.setReply v).seg = s.seg := rfl
@[simp] theorem State.setReply_rk (v : BitVec 64) : (s.setReply v).rk = s.rk := rfl
@[simp] theorem State.setReply_busy (v : BitVec 64) : (s.setReply v).busy = s.busy := rfl
@[simp] theorem State.setReply_done (v : BitVec 64) : (s.setReply v).done = s.done := rfl
@[simp] theorem State.setReply_err (v : BitVec 64) : (s.setReply v).err = s.err := rfl
@[simp] theorem State.setReply_rkv (v : BitVec 64) : (s.setReply v).rkv = s.rkv := rfl
@[simp] theorem State.setReply_errcode (v : BitVec 64) : (s.setReply v).errcode = s.errcode := rfl
@[simp] theorem State.setReply_dlen (v : BitVec 64) : (s.setReply v).dlen = s.dlen := rfl
@[simp] theorem State.setReply_k1len (v : BitVec 64) : (s.setReply v).k1len = s.k1len := rfl
@[simp] theorem State.setReply_k2len (v : BitVec 64) : (s.setReply v).k2len = s.k2len := rfl
@[simp] theorem State.setReply_k3len (v : BitVec 64) : (s.setReply v).k3len = s.k3len := rfl
@[simp] theorem State.setReply_olen (v : BitVec 64) : (s.setReply v).olen = s.olen := rfl
@[simp] theorem State.setReply_cmdl (v : BitVec 64) : (s.setReply v).cmdl = s.cmdl := rfl
@[simp] theorem State.setReply_dmem (v : BitVec 64) : (s.setReply v).dmem = s.dmem := rfl
@[simp] theorem State.setReply_k1mem (v : BitVec 64) : (s.setReply v).k1mem = s.k1mem := rfl
@[simp] theorem State.setReply_k2mem (v : BitVec 64) : (s.setReply v).k2mem = s.k2mem := rfl
@[simp] theorem State.setReply_k3mem (v : BitVec 64) : (s.setReply v).k3mem = s.k3mem := rfl
@[simp] theorem State.setReply_omem (v : BitVec 64) : (s.setReply v).omem = s.omem := rfl
@[simp] theorem State.setReply_agenda (v : BitVec 64) : (s.setReply v).agenda = s.agenda := rfl
@[simp] theorem State.setReply_reply (v : BitVec 64) : (s.setReply v).reply = v := rfl
@[simp] theorem State.setReply_draws (v : BitVec 64) : (s.setReply v).draws = s.draws := rfl

/-! ### State.draw -/

@[simp] theorem State.draw_cfg : (s.draw).cfg = s.cfg := rfl
@[simp] theorem State.draw_blk : (s.draw).blk = s.blk := rfl
@[simp] theorem State.draw_seg : (s.draw).seg = s.seg := rfl
@[simp] theorem State.draw_rk : (s.draw).rk = s.rk := rfl
@[simp] theorem State.draw_busy : (s.draw).busy = s.busy := rfl
@[simp] theorem State.draw_done : (s.draw).done = s.done := rfl
@[simp] theorem State.draw_err : (s.draw).err = s.err := rfl
@[simp] theorem State.draw_rkv : (s.draw).rkv = s.rkv := rfl
@[simp] theorem State.draw_errcode : (s.draw).errcode = s.errcode := rfl
@[simp] theorem State.draw_dlen : (s.draw).dlen = s.dlen := rfl
@[simp] theorem State.draw_k1len : (s.draw).k1len = s.k1len := rfl
@[simp] theorem State.draw_k2len : (s.draw).k2len = s.k2len := rfl
@[simp] theorem State.draw_k3len : (s.draw).k3len = s.k3len := rfl
@[simp] theorem State.draw_olen : (s.draw).olen = s.olen := rfl
@[simp] theorem State.draw_cmdl : (s.draw).cmdl = s.cmdl := rfl
@[simp] theorem State.draw_dmem : (s.draw).dmem = s.dmem := rfl
@[simp] theorem State.draw_k1mem : (s.draw).k1mem = s.k1mem := rfl
@[simp] theorem State.draw_k2mem : (s.draw).k2mem = s.k2mem := rfl
@[simp] theorem State.draw_k3mem : (s.draw).k3mem = s.k3mem := rfl
@[simp] theorem State.draw_omem : (s.draw).omem = s.omem := rfl
@[simp] theorem State.draw_agenda : (s.draw).agenda = s.agenda := rfl
@[simp] theorem State.draw_reply : (s.draw).reply = s.reply := rfl
@[simp] theorem State.draw_draws : (s.draw).draws = s.draws + 1 := rfl

/-! ### State.setAgenda -/

@[simp] theorem State.setAgenda_cfg (ts : List Turn) : (s.setAgenda ts).cfg = s.cfg := rfl
@[simp] theorem State.setAgenda_blk (ts : List Turn) : (s.setAgenda ts).blk = s.blk := rfl
@[simp] theorem State.setAgenda_seg (ts : List Turn) : (s.setAgenda ts).seg = s.seg := rfl
@[simp] theorem State.setAgenda_rk (ts : List Turn) : (s.setAgenda ts).rk = s.rk := rfl
@[simp] theorem State.setAgenda_busy (ts : List Turn) : (s.setAgenda ts).busy = s.busy := rfl
@[simp] theorem State.setAgenda_done (ts : List Turn) : (s.setAgenda ts).done = s.done := rfl
@[simp] theorem State.setAgenda_err (ts : List Turn) : (s.setAgenda ts).err = s.err := rfl
@[simp] theorem State.setAgenda_rkv (ts : List Turn) : (s.setAgenda ts).rkv = s.rkv := rfl
@[simp] theorem State.setAgenda_errcode (ts : List Turn) : (s.setAgenda ts).errcode = s.errcode := rfl
@[simp] theorem State.setAgenda_dlen (ts : List Turn) : (s.setAgenda ts).dlen = s.dlen := rfl
@[simp] theorem State.setAgenda_k1len (ts : List Turn) : (s.setAgenda ts).k1len = s.k1len := rfl
@[simp] theorem State.setAgenda_k2len (ts : List Turn) : (s.setAgenda ts).k2len = s.k2len := rfl
@[simp] theorem State.setAgenda_k3len (ts : List Turn) : (s.setAgenda ts).k3len = s.k3len := rfl
@[simp] theorem State.setAgenda_olen (ts : List Turn) : (s.setAgenda ts).olen = s.olen := rfl
@[simp] theorem State.setAgenda_cmdl (ts : List Turn) : (s.setAgenda ts).cmdl = s.cmdl := rfl
@[simp] theorem State.setAgenda_dmem (ts : List Turn) : (s.setAgenda ts).dmem = s.dmem := rfl
@[simp] theorem State.setAgenda_k1mem (ts : List Turn) : (s.setAgenda ts).k1mem = s.k1mem := rfl
@[simp] theorem State.setAgenda_k2mem (ts : List Turn) : (s.setAgenda ts).k2mem = s.k2mem := rfl
@[simp] theorem State.setAgenda_k3mem (ts : List Turn) : (s.setAgenda ts).k3mem = s.k3mem := rfl
@[simp] theorem State.setAgenda_omem (ts : List Turn) : (s.setAgenda ts).omem = s.omem := rfl
@[simp] theorem State.setAgenda_agenda (ts : List Turn) : (s.setAgenda ts).agenda = ts := rfl
@[simp] theorem State.setAgenda_reply (ts : List Turn) : (s.setAgenda ts).reply = s.reply := rfl
@[simp] theorem State.setAgenda_draws (ts : List Turn) : (s.setAgenda ts).draws = s.draws := rfl

/-! ### finish -/

@[simp] theorem finish_cfg : (finish s).cfg = s.cfg := rfl
@[simp] theorem finish_blk : (finish s).blk = s.blk := rfl
@[simp] theorem finish_seg : (finish s).seg = s.seg := rfl
@[simp] theorem finish_rk : (finish s).rk = s.rk := rfl
@[simp] theorem finish_busy : (finish s).busy = false := rfl
@[simp] theorem finish_done : (finish s).done = true := rfl
@[simp] theorem finish_err : (finish s).err = s.err := rfl
@[simp] theorem finish_rkv : (finish s).rkv = s.rkv := rfl
@[simp] theorem finish_errcode : (finish s).errcode = s.errcode := rfl
@[simp] theorem finish_dlen : (finish s).dlen = s.dlen := rfl
@[simp] theorem finish_k1len : (finish s).k1len = s.k1len := rfl
@[simp] theorem finish_k2len : (finish s).k2len = s.k2len := rfl
@[simp] theorem finish_k3len : (finish s).k3len = s.k3len := rfl
@[simp] theorem finish_olen : (finish s).olen = s.olen := rfl
@[simp] theorem finish_cmdl : (finish s).cmdl = s.cmdl := rfl
@[simp] theorem finish_dmem : (finish s).dmem = s.dmem := rfl
@[simp] theorem finish_k1mem : (finish s).k1mem = s.k1mem := rfl
@[simp] theorem finish_k2mem : (finish s).k2mem = s.k2mem := rfl
@[simp] theorem finish_k3mem : (finish s).k3mem = s.k3mem := rfl
@[simp] theorem finish_omem : (finish s).omem = s.omem := rfl
@[simp] theorem finish_agenda : (finish s).agenda = s.agenda := rfl
@[simp] theorem finish_reply : (finish s).reply = s.reply := rfl
@[simp] theorem finish_draws : (finish s).draws = s.draws := rfl

/-! ### accept -/

@[simp] theorem accept_cfg (v : BitVec 64) : (accept v s).cfg = s.cfg := rfl
@[simp] theorem accept_blk (v : BitVec 64) : (accept v s).blk = s.blk := rfl
@[simp] theorem accept_seg (v : BitVec 64) : (accept v s).seg = s.seg := rfl
@[simp] theorem accept_rk (v : BitVec 64) : (accept v s).rk = s.rk := rfl
@[simp] theorem accept_busy (v : BitVec 64) : (accept v s).busy = true := rfl
@[simp] theorem accept_done (v : BitVec 64) : (accept v s).done = false := rfl
@[simp] theorem accept_err (v : BitVec 64) : (accept v s).err = s.err := rfl
@[simp] theorem accept_rkv (v : BitVec 64) : (accept v s).rkv = s.rkv := rfl
@[simp] theorem accept_errcode (v : BitVec 64) : (accept v s).errcode = s.errcode := rfl
@[simp] theorem accept_dlen (v : BitVec 64) : (accept v s).dlen = s.dlen := rfl
@[simp] theorem accept_k1len (v : BitVec 64) : (accept v s).k1len = s.k1len := rfl
@[simp] theorem accept_k2len (v : BitVec 64) : (accept v s).k2len = s.k2len := rfl
@[simp] theorem accept_k3len (v : BitVec 64) : (accept v s).k3len = s.k3len := rfl
@[simp] theorem accept_olen (v : BitVec 64) : (accept v s).olen = s.olen := rfl
@[simp] theorem accept_cmdl (v : BitVec 64) : (accept v s).cmdl = v.setWidth 32 := rfl
@[simp] theorem accept_dmem (v : BitVec 64) : (accept v s).dmem = s.dmem := rfl
@[simp] theorem accept_k1mem (v : BitVec 64) : (accept v s).k1mem = s.k1mem := rfl
@[simp] theorem accept_k2mem (v : BitVec 64) : (accept v s).k2mem = s.k2mem := rfl
@[simp] theorem accept_k3mem (v : BitVec 64) : (accept v s).k3mem = s.k3mem := rfl
@[simp] theorem accept_omem (v : BitVec 64) : (accept v s).omem = s.omem := rfl
@[simp] theorem accept_agenda (v : BitVec 64) : (accept v s).agenda = s.agenda := rfl
@[simp] theorem accept_reply (v : BitVec 64) : (accept v s).reply = s.reply := rfl
@[simp] theorem accept_draws (v : BitVec 64) : (accept v s).draws = s.draws := rfl

/-! ### clearRegisters -/

@[simp] theorem clearRegisters_cfg : (clearRegisters s).cfg = s.cfg := rfl
@[simp] theorem clearRegisters_blk : (clearRegisters s).blk = 0 := rfl
@[simp] theorem clearRegisters_seg : (clearRegisters s).seg = 0 := rfl
@[simp] theorem clearRegisters_rk : (clearRegisters s).rk = Vector.replicate 16 0 := rfl
@[simp] theorem clearRegisters_busy : (clearRegisters s).busy = s.busy := rfl
@[simp] theorem clearRegisters_done : (clearRegisters s).done = s.done := rfl
@[simp] theorem clearRegisters_err : (clearRegisters s).err = false := rfl
@[simp] theorem clearRegisters_rkv : (clearRegisters s).rkv = false := rfl
@[simp] theorem clearRegisters_errcode : (clearRegisters s).errcode = .none := rfl
@[simp] theorem clearRegisters_dlen : (clearRegisters s).dlen = 0 := rfl
@[simp] theorem clearRegisters_k1len : (clearRegisters s).k1len = 0 := rfl
@[simp] theorem clearRegisters_k2len : (clearRegisters s).k2len = 0 := rfl
@[simp] theorem clearRegisters_k3len : (clearRegisters s).k3len = 0 := rfl
@[simp] theorem clearRegisters_olen : (clearRegisters s).olen = 0 := rfl
@[simp] theorem clearRegisters_cmdl : (clearRegisters s).cmdl = s.cmdl := rfl
@[simp] theorem clearRegisters_dmem : (clearRegisters s).dmem = s.dmem := rfl
@[simp] theorem clearRegisters_k1mem : (clearRegisters s).k1mem = s.k1mem := rfl
@[simp] theorem clearRegisters_k2mem : (clearRegisters s).k2mem = s.k2mem := rfl
@[simp] theorem clearRegisters_k3mem : (clearRegisters s).k3mem = s.k3mem := rfl
@[simp] theorem clearRegisters_omem : (clearRegisters s).omem = s.omem := rfl
@[simp] theorem clearRegisters_agenda : (clearRegisters s).agenda = s.agenda := rfl
@[simp] theorem clearRegisters_reply : (clearRegisters s).reply = s.reply := rfl
@[simp] theorem clearRegisters_draws : (clearRegisters s).draws = s.draws := rfl

/-! ### State.setKlen and State.setKmem -/

@[simp] theorem State.setKlen_cfg (k : KeySel) (v : BitVec 32) : (s.setKlen k v).cfg = s.cfg := by cases k <;> rfl
@[simp] theorem State.setKlen_blk (k : KeySel) (v : BitVec 32) : (s.setKlen k v).blk = s.blk := by cases k <;> rfl
@[simp] theorem State.setKlen_seg (k : KeySel) (v : BitVec 32) : (s.setKlen k v).seg = s.seg := by cases k <;> rfl
@[simp] theorem State.setKlen_rk (k : KeySel) (v : BitVec 32) : (s.setKlen k v).rk = s.rk := by cases k <;> rfl
@[simp] theorem State.setKlen_busy (k : KeySel) (v : BitVec 32) : (s.setKlen k v).busy = s.busy := by cases k <;> rfl
@[simp] theorem State.setKlen_done (k : KeySel) (v : BitVec 32) : (s.setKlen k v).done = s.done := by cases k <;> rfl
@[simp] theorem State.setKlen_err (k : KeySel) (v : BitVec 32) : (s.setKlen k v).err = s.err := by cases k <;> rfl
@[simp] theorem State.setKlen_rkv (k : KeySel) (v : BitVec 32) : (s.setKlen k v).rkv = s.rkv := by cases k <;> rfl
@[simp] theorem State.setKlen_errcode (k : KeySel) (v : BitVec 32) : (s.setKlen k v).errcode = s.errcode := by cases k <;> rfl
@[simp] theorem State.setKlen_dlen (k : KeySel) (v : BitVec 32) : (s.setKlen k v).dlen = s.dlen := by cases k <;> rfl
@[simp] theorem State.setKlen_k1len (k : KeySel) (v : BitVec 32) :
    (s.setKlen k v).k1len = if k = .key1 then v else s.k1len := by cases k <;> rfl
@[simp] theorem State.setKlen_k2len (k : KeySel) (v : BitVec 32) :
    (s.setKlen k v).k2len = if k = .key2 then v else s.k2len := by cases k <;> rfl
@[simp] theorem State.setKlen_k3len (k : KeySel) (v : BitVec 32) :
    (s.setKlen k v).k3len = if k = .key3 then v else s.k3len := by cases k <;> rfl
@[simp] theorem State.setKlen_olen (k : KeySel) (v : BitVec 32) : (s.setKlen k v).olen = s.olen := by cases k <;> rfl
@[simp] theorem State.setKlen_cmdl (k : KeySel) (v : BitVec 32) : (s.setKlen k v).cmdl = s.cmdl := by cases k <;> rfl
@[simp] theorem State.setKlen_dmem (k : KeySel) (v : BitVec 32) : (s.setKlen k v).dmem = s.dmem := by cases k <;> rfl
@[simp] theorem State.setKlen_k1mem (k : KeySel) (v : BitVec 32) : (s.setKlen k v).k1mem = s.k1mem := by cases k <;> rfl
@[simp] theorem State.setKlen_k2mem (k : KeySel) (v : BitVec 32) : (s.setKlen k v).k2mem = s.k2mem := by cases k <;> rfl
@[simp] theorem State.setKlen_k3mem (k : KeySel) (v : BitVec 32) : (s.setKlen k v).k3mem = s.k3mem := by cases k <;> rfl
@[simp] theorem State.setKlen_omem (k : KeySel) (v : BitVec 32) : (s.setKlen k v).omem = s.omem := by cases k <;> rfl
@[simp] theorem State.setKlen_agenda (k : KeySel) (v : BitVec 32) : (s.setKlen k v).agenda = s.agenda := by cases k <;> rfl
@[simp] theorem State.setKlen_reply (k : KeySel) (v : BitVec 32) : (s.setKlen k v).reply = s.reply := by cases k <;> rfl
@[simp] theorem State.setKlen_draws (k : KeySel) (v : BitVec 32) : (s.setKlen k v).draws = s.draws := by cases k <;> rfl
@[simp] theorem State.setKmem_cfg (k : KeySel) (m : Cells 16) : (s.setKmem k m).cfg = s.cfg := by cases k <;> rfl
@[simp] theorem State.setKmem_blk (k : KeySel) (m : Cells 16) : (s.setKmem k m).blk = s.blk := by cases k <;> rfl
@[simp] theorem State.setKmem_seg (k : KeySel) (m : Cells 16) : (s.setKmem k m).seg = s.seg := by cases k <;> rfl
@[simp] theorem State.setKmem_rk (k : KeySel) (m : Cells 16) : (s.setKmem k m).rk = s.rk := by cases k <;> rfl
@[simp] theorem State.setKmem_busy (k : KeySel) (m : Cells 16) : (s.setKmem k m).busy = s.busy := by cases k <;> rfl
@[simp] theorem State.setKmem_done (k : KeySel) (m : Cells 16) : (s.setKmem k m).done = s.done := by cases k <;> rfl
@[simp] theorem State.setKmem_err (k : KeySel) (m : Cells 16) : (s.setKmem k m).err = s.err := by cases k <;> rfl
@[simp] theorem State.setKmem_rkv (k : KeySel) (m : Cells 16) : (s.setKmem k m).rkv = s.rkv := by cases k <;> rfl
@[simp] theorem State.setKmem_errcode (k : KeySel) (m : Cells 16) : (s.setKmem k m).errcode = s.errcode := by cases k <;> rfl
@[simp] theorem State.setKmem_dlen (k : KeySel) (m : Cells 16) : (s.setKmem k m).dlen = s.dlen := by cases k <;> rfl
@[simp] theorem State.setKmem_k1len (k : KeySel) (m : Cells 16) : (s.setKmem k m).k1len = s.k1len := by cases k <;> rfl
@[simp] theorem State.setKmem_k2len (k : KeySel) (m : Cells 16) : (s.setKmem k m).k2len = s.k2len := by cases k <;> rfl
@[simp] theorem State.setKmem_k3len (k : KeySel) (m : Cells 16) : (s.setKmem k m).k3len = s.k3len := by cases k <;> rfl
@[simp] theorem State.setKmem_olen (k : KeySel) (m : Cells 16) : (s.setKmem k m).olen = s.olen := by cases k <;> rfl
@[simp] theorem State.setKmem_cmdl (k : KeySel) (m : Cells 16) : (s.setKmem k m).cmdl = s.cmdl := by cases k <;> rfl
@[simp] theorem State.setKmem_dmem (k : KeySel) (m : Cells 16) : (s.setKmem k m).dmem = s.dmem := by cases k <;> rfl
@[simp] theorem State.setKmem_k1mem (k : KeySel) (m : Cells 16) :
    (s.setKmem k m).k1mem = if k = .key1 then m else s.k1mem := by cases k <;> rfl
@[simp] theorem State.setKmem_k2mem (k : KeySel) (m : Cells 16) :
    (s.setKmem k m).k2mem = if k = .key2 then m else s.k2mem := by cases k <;> rfl
@[simp] theorem State.setKmem_k3mem (k : KeySel) (m : Cells 16) :
    (s.setKmem k m).k3mem = if k = .key3 then m else s.k3mem := by cases k <;> rfl
@[simp] theorem State.setKmem_omem (k : KeySel) (m : Cells 16) : (s.setKmem k m).omem = s.omem := by cases k <;> rfl
@[simp] theorem State.setKmem_agenda (k : KeySel) (m : Cells 16) : (s.setKmem k m).agenda = s.agenda := by cases k <;> rfl
@[simp] theorem State.setKmem_reply (k : KeySel) (m : Cells 16) : (s.setKmem k m).reply = s.reply := by cases k <;> rfl
@[simp] theorem State.setKmem_draws (k : KeySel) (m : Cells 16) : (s.setKmem k m).draws = s.draws := by cases k <;> rfl

/-! ### raiseError -/

@[simp] theorem raiseError_cfg (c : ErrCode) : (raiseError c s).cfg = s.cfg := by
  unfold raiseError; split <;> rfl
@[simp] theorem raiseError_blk (c : ErrCode) : (raiseError c s).blk = s.blk := by
  unfold raiseError; split <;> rfl
@[simp] theorem raiseError_seg (c : ErrCode) : (raiseError c s).seg = s.seg := by
  unfold raiseError; split <;> rfl
@[simp] theorem raiseError_rk (c : ErrCode) : (raiseError c s).rk = s.rk := by
  unfold raiseError; split <;> rfl
@[simp] theorem raiseError_busy (c : ErrCode) : (raiseError c s).busy = s.busy := by
  unfold raiseError; split <;> rfl
@[simp] theorem raiseError_done (c : ErrCode) : (raiseError c s).done = s.done := by
  unfold raiseError; split <;> rfl
@[simp] theorem raiseError_err (c : ErrCode) : (raiseError c s).err = true := by
  unfold raiseError; split <;> simp_all
@[simp] theorem raiseError_rkv (c : ErrCode) : (raiseError c s).rkv = s.rkv := by
  unfold raiseError; split <;> rfl
@[simp] theorem raiseError_errcode (c : ErrCode) :
    (raiseError c s).errcode = if s.err then s.errcode else c := by
  unfold raiseError; split <;> rfl
@[simp] theorem raiseError_dlen (c : ErrCode) : (raiseError c s).dlen = s.dlen := by
  unfold raiseError; split <;> rfl
@[simp] theorem raiseError_k1len (c : ErrCode) : (raiseError c s).k1len = s.k1len := by
  unfold raiseError; split <;> rfl
@[simp] theorem raiseError_k2len (c : ErrCode) : (raiseError c s).k2len = s.k2len := by
  unfold raiseError; split <;> rfl
@[simp] theorem raiseError_k3len (c : ErrCode) : (raiseError c s).k3len = s.k3len := by
  unfold raiseError; split <;> rfl
@[simp] theorem raiseError_olen (c : ErrCode) : (raiseError c s).olen = s.olen := by
  unfold raiseError; split <;> rfl
@[simp] theorem raiseError_cmdl (c : ErrCode) : (raiseError c s).cmdl = s.cmdl := by
  unfold raiseError; split <;> rfl
@[simp] theorem raiseError_dmem (c : ErrCode) : (raiseError c s).dmem = s.dmem := by
  unfold raiseError; split <;> rfl
@[simp] theorem raiseError_k1mem (c : ErrCode) : (raiseError c s).k1mem = s.k1mem := by
  unfold raiseError; split <;> rfl
@[simp] theorem raiseError_k2mem (c : ErrCode) : (raiseError c s).k2mem = s.k2mem := by
  unfold raiseError; split <;> rfl
@[simp] theorem raiseError_k3mem (c : ErrCode) : (raiseError c s).k3mem = s.k3mem := by
  unfold raiseError; split <;> rfl
@[simp] theorem raiseError_omem (c : ErrCode) : (raiseError c s).omem = s.omem := by
  unfold raiseError; split <;> rfl
@[simp] theorem raiseError_agenda (c : ErrCode) : (raiseError c s).agenda = s.agenda := by
  unfold raiseError; split <;> rfl
@[simp] theorem raiseError_reply (c : ErrCode) : (raiseError c s).reply = s.reply := by
  unfold raiseError; split <;> rfl
@[simp] theorem raiseError_draws (c : ErrCode) : (raiseError c s).draws = s.draws := by
  unfold raiseError; split <;> rfl

/-! ### Key slots through the updates -/

theorem kmem_congr {t : State} (h1 : t.k1mem = s.k1mem) (h2 : t.k2mem = s.k2mem) (h3 : t.k3mem = s.k3mem)
    (k : KeySel) : kmem t k = kmem s k := by
  cases k <;> simp [kmem, h1, h2, h3]

theorem klen_congr {t : State} (h1 : t.k1len = s.k1len) (h2 : t.k2len = s.k2len) (h3 : t.k3len = s.k3len)
    (k : KeySel) : klen t k = klen s k := by
  cases k <;> simp [klen, h1, h2, h3]

@[simp] theorem kmem_setKmem (k : KeySel) (m : Cells 16) : kmem (s.setKmem k m) k = m := by cases k <;> rfl

@[simp] theorem klen_setKlen (k : KeySel) (v : BitVec 32) : klen (s.setKlen k v) k = v := by cases k <;> rfl

theorem kmem_setKmem_other {j k : KeySel} (m : Cells 16) (h : j ≠ k) : kmem (s.setKmem k m) j = kmem s j := by
  cases j <;> cases k <;> first | rfl | exact absurd rfl h

theorem klen_setKlen_other {j k : KeySel} (v : BitVec 32) (h : j ≠ k) : klen (s.setKlen k v) j = klen s j := by
  cases j <;> cases k <;> first | rfl | exact absurd rfl h

/-- All that `raise Error` does, in one record (60_exceptions.md R172). -/
theorem raiseError_eq (c : ErrCode) :
    raiseError c s = { s with err := true, errcode := if s.err then s.errcode else c } := by
  cases h : s.err <;> simp [raiseError, h]
  cases s
  simp_all

/-- The first error is the one that stays (60_exceptions.md R172, R178). -/
theorem raiseError_of_err {c : ErrCode} (h : s.err = true) : raiseError c s = s := by simp [raiseError, h]

/-- The first error is recorded (60_exceptions.md R172). -/
theorem raiseError_of_not_err {c : ErrCode} (h : s.err = false) :
    raiseError c s = { s with err := true, errcode := c } := by simp [raiseError, h]

end Sys2Proof.Machine
end

