-- ==== Sys2Proof/Laws/Memory.lean ====
section
/-! SUPPORT. The laws of a buffer: a read after a write to the same cell gives the value written, a write leaves every
other cell alone, and every write keeps the canonical form. -/

namespace Sys2Proof.Machine

variable {w : Nat}

@[simp] theorem readCell_nil (i : Nat) : readCell ([] : Cells w) i = none := rfl

theorem readCell_writeCell_self (m : Cells w) (i : Nat) (v : BitVec w) : readCell (writeCell m i v) i = some v := by
  induction m with
  | nil => simp [writeCell, readCell]
  | cons p m ih =>
    obtain ⟨a, x⟩ := p
    simp only [writeCell]
    split
    · simp [readCell]
    · split
      · simp [readCell]
      · simp [readCell, ih]; omega

theorem readCell_writeCell_other (m : Cells w) {i j : Nat} (v : BitVec w) (h : j ≠ i) :
    readCell (writeCell m i v) j = readCell m j := by
  induction m with
  | nil => simp [writeCell, readCell]; omega
  | cons p m ih =>
    obtain ⟨a, x⟩ := p
    simp only [writeCell]
    split
    · simp [readCell]; omega
    · split
      · simp [readCell]; grind
      · simp [readCell, ih]

theorem readCell_writeCell (m : Cells w) (i j : Nat) (v : BitVec w) :
    readCell (writeCell m i v) j = if j = i then some v else readCell m j := by
  split
  · next h => exact h ▸ readCell_writeCell_self m j v
  · next h => exact readCell_writeCell_other m v h

/-- All that a run of writes does: its own cells take the values, every other cell is as before. -/
theorem readCell_writeCells (m : Cells w) (i j : Nat) (vs : List (BitVec w)) :
    readCell (writeCells m i vs) j = if h : i ≤ j ∧ j < i + vs.length then some (vs[j - i]'(by omega)) else readCell m j := by
  induction vs generalizing m i with
  | nil => simp [writeCells]
  | cons v vs ih =>
    rw [writeCells, ih, readCell_writeCell]
    simp only [List.length_cons]
    by_cases h1 : i + 1 ≤ j ∧ j < i + 1 + vs.length
    · obtain ⟨k, rfl⟩ : ∃ k, j = i + 1 + k := ⟨j - (i + 1), by omega⟩
      rw [dif_pos h1, dif_pos (⟨by omega, by omega⟩ : i ≤ i + 1 + k ∧ i + 1 + k < i + (vs.length + 1))]
      simp [show i + 1 + k - (i + 1) = k by omega, show i + 1 + k - i = k + 1 by omega]
    · rw [dif_neg h1]
      by_cases h2 : j = i
      · subst h2; simp
      · rw [if_neg h2, dif_neg (by omega)]

theorem readCell_writeCells_inside (m : Cells w) (i : Nat) (vs : List (BitVec w)) {k : Nat} (h : k < vs.length) :
    readCell (writeCells m i vs) (i + k) = some vs[k] := by
  rw [readCell_writeCells, dif_pos (by omega)]
  simp

theorem readCell_writeCells_outside (m : Cells w) (i : Nat) (vs : List (BitVec w)) {j : Nat}
    (h : j < i ∨ i + vs.length ≤ j) : readCell (writeCells m i vs) j = readCell m j := by
  rw [readCell_writeCells, dif_neg (by omega)]

/-- What can stand in a buffer after a write. -/
theorem mem_writeCell {m : Cells w} {i : Nat} {v : BitVec w} {p : Nat × BitVec w} (h : p ∈ writeCell m i v) :
    p = (i, v) ∨ p ∈ m := by
  induction m with
  | nil => simpa [writeCell] using h
  | cons q m ih =>
    obtain ⟨a, x⟩ := q
    simp only [writeCell] at h
    split at h
    · simpa using h
    · split at h
      · simp only [List.mem_cons] at h ⊢; tauto
      · simp only [List.mem_cons] at h ⊢; tauto

theorem mem_writeCells {m : Cells w} {i : Nat} {vs : List (BitVec w)} {p : Nat × BitVec w}
    (h : p ∈ writeCells m i vs) : p ∈ m ∨ (i ≤ p.1 ∧ p.1 < i + vs.length ∧ p.2 ∈ vs) := by
  induction vs generalizing m i with
  | nil => exact Or.inl h
  | cons v vs ih =>
    rcases ih h with h | ⟨h1, h2, h3⟩
    · rcases mem_writeCell h with rfl | h
      · right; simp
      · exact Or.inl h
    · right; simp only [List.length_cons, List.mem_cons]; exact ⟨by omega, by omega, Or.inr h3⟩

/-- A write inside the buffer keeps the canonical form. -/
theorem writeCell_canonical {cap : Nat} {m : Cells w} {i : Nat} (v : BitVec w) (h : Memory.canonical cap m)
    (hi : i < cap) : Memory.canonical cap (writeCell m i v) := by
  refine ⟨?_, fun p hp => ?_⟩
  · have hs := h.1
    clear h
    induction m with
    | nil => simp [writeCell]
    | cons q m ih =>
      obtain ⟨a, x⟩ := q
      obtain ⟨h1, h2⟩ := List.pairwise_cons.mp hs
      simp only [writeCell]
      split
      · next hlt =>
        refine List.pairwise_cons.mpr ⟨fun p hp => ?_, hs⟩
        rcases List.mem_cons.mp hp with rfl | hp
        · exact hlt
        · exact Nat.lt_trans hlt (h1 p hp)
      · split
        · next heq => exact List.pairwise_cons.mpr ⟨fun p hp => heq ▸ h1 p hp, h2⟩
        · next hge hne =>
          refine List.pairwise_cons.mpr ⟨fun p hp => ?_, ih h2⟩
          rcases mem_writeCell hp with rfl | hp
          · simp only; omega
          · exact h1 p hp
  · rcases mem_writeCell hp with rfl | hp
    · exact hi
    · exact h.2 p hp

/-- A run of writes inside the buffer keeps the canonical form. -/
theorem writeCells_canonical {cap : Nat} {m : Cells w} {i : Nat} (vs : List (BitVec w)) (h : Memory.canonical cap m)
    (hi : i + vs.length ≤ cap) : Memory.canonical cap (writeCells m i vs) := by
  induction vs generalizing m i with
  | nil => exact h
  | cons v vs ih =>
    simp only [List.length_cons] at hi
    exact ih (writeCell_canonical v h (by omega)) (by omega)

/-- A written cell of a canonical buffer lies inside it. -/
theorem readCell_lt {cap : Nat} {m : Cells w} {i : Nat} {v : BitVec w} (h : Memory.canonical cap m)
    (hr : readCell m i = some v) : i < cap := by
  have hm : (i, v) ∈ m := by
    clear h
    induction m with
    | nil => simp at hr
    | cons q m ih =>
      obtain ⟨a, x⟩ := q
      simp only [readCell] at hr
      split at hr
      · next h => simp_all
      · exact List.mem_cons_of_mem _ (ih hr)
  exact h.2 _ hm

end Sys2Proof.Machine
end

