-- ==== Sys2Proof/Laws/Engine.lean ====
section
/-! SUPPORT. What each operation of the engine can do, said once: the cells a chunk reads, the two packs, storing a block,
the pieces of the cascade, and the outcome of each command. -/

namespace Sys2Proof.Machine

/-! ### Sequencing inside one step -/

/-- A sequenced operation answers a state only through both of its parts. -/
theorem bind_ok {α β : Type} {x : Except Fault α} {f : α → Except Fault β} {b : β} :
    (x >>= f) = .ok b ↔ ∃ a, x = .ok a ∧ f a = .ok b := by
  cases x <;> simp [bind, Except.bind]

/-- A sequenced operation faults in its first part or, that done, in its second. -/
theorem bind_error {α β : Type} {x : Except Fault α} {f : α → Except Fault β} {e : Fault} :
    (x >>= f) = .error e ↔ x = .error e ∨ ∃ a, x = .ok a ∧ f a = .error e := by
  cases x <;> simp [bind, Except.bind]

/-- A property every round keeps holds after the loop. -/
theorem foldlM_keeps {α : Type} {f : State → α → Result} {P : State → Prop} :
    ∀ {l : List α} {s t : State}, (∀ a ∈ l, ∀ s t, P s → f s a = .ok t → P t) → P s → l.foldlM f s = .ok t → P t
  | [], s, t, _, hs, h => by
    rw [List.foldlM_nil] at h
    cases h
    exact hs
  | a :: l, s, t, hf, hs, h => by
    rw [List.foldlM_cons, bind_ok] at h
    obtain ⟨u, h1, h2⟩ := h
    exact foldlM_keeps (fun b hb => hf b (List.mem_cons_of_mem _ hb)) (hf a List.mem_cons_self _ _ hs h1) h2

/-- A loop faults only where one of its rounds does. -/
theorem foldlM_faults {α : Type} {f : State → α → Result} {P : State → Prop} {Q : Fault → Prop} {e : Fault} :
    ∀ {l : List α} {s : State}, (∀ a ∈ l, ∀ s t, P s → f s a = .ok t → P t) →
      (∀ a ∈ l, ∀ s, P s → f s a = .error e → Q e) → P s → l.foldlM f s = .error e → Q e
  | [], s, _, _, _, h => by
    rw [List.foldlM_nil] at h
    cases h
  | a :: l, s, hf, hq, hs, h => by
    rw [List.foldlM_cons, bind_error] at h
    rcases h with h | ⟨u, h1, h2⟩
    · exact hq a List.mem_cons_self s hs h
    · exact foldlM_faults (fun b hb => hf b (List.mem_cons_of_mem _ hb))
        (fun b hb => hq b (List.mem_cons_of_mem _ hb)) (hf a List.mem_cons_self _ _ hs h1) h2

@[simp] theorem toOutcome_next {r : Result} {t : State} : toOutcome r = .next t ↔ r = .ok t := by
  cases r <;> simp [toOutcome]

@[simp] theorem toOutcome_fault {r : Result} {e : Fault} : toOutcome r = .fault e ↔ r = .error e := by
  cases r <;> simp [toOutcome]

@[simp] theorem toOutcome_refused {r : Result} {c : Refusal} : ¬ toOutcome r = .refused c := by
  cases r <;> simp [toOutcome]

theorem map_ok {r : Result} {f : State → State} {t : State} : r.map f = .ok t ↔ ∃ u, r = .ok u ∧ f u = t := by
  cases r <;> simp [Except.map]

theorem map_error {r : Result} {f : State → State} {e : Fault} : r.map f = .error e ↔ r = .error e := by
  cases r <;> simp [Except.map]

/-! ### Reading a chunk -/

theorem fetchCell_ok {S : Space} {m : Cells 16} {cap i : Nat} {c : CharCell} :
    fetchCell S m cap i = .ok c ↔ i < cap ∧ readCell m i = some c := by
  unfold fetchCell
  split
  · split <;> simp_all
  · simp_all

theorem fetchCell_error {S : Space} {m : Cells 16} {cap i : Nat} {e : Fault} :
    fetchCell S m cap i = .error e ↔
      (i < cap ∧ readCell m i = none ∧ e = .unwrittenCell S i) ∨ (cap ≤ i ∧ e = .outsideBuffer S i) := by
  unfold fetchCell
  split
  · split
    · simp_all
    · simp_all [eq_comm]
  · next h => simp only [Except.error.injEq]; constructor
              · rintro rfl; exact Or.inr ⟨by omega, rfl⟩
              · rintro (h' | h'); · exact absurd h'.1 h
                exact h'.2.symm

/-- A run of reads answers exactly the values of its cells, all inside the buffer and written. -/
theorem fetchCells_ok {S : Space} {m : Cells 16} {cap : Nat} :
    ∀ {n i : Nat} {cs : List CharCell}, fetchCells S m cap i n = .ok cs ↔
      cs.length = n ∧ ∀ j, (h : j < cs.length) → i + j < cap ∧ readCell m (i + j) = some cs[j]
  | 0, i, cs => by
    simp only [fetchCells, Except.ok.injEq, List.length_eq_zero_iff]
    constructor
    · rintro rfl; simp
    · rintro ⟨rfl, -⟩; rfl
  | n + 1, i, cs => by
    simp only [fetchCells, bind_ok, fetchCell_ok, fetchCells_ok (n := n), pure, Except.pure, Except.ok.injEq]
    constructor
    · rintro ⟨c, ⟨h1, h2⟩, ds, ⟨h3, h4⟩, rfl⟩
      refine ⟨by simp [h3], fun j hj => ?_⟩
      cases j with
      | zero => exact ⟨h1, h2⟩
      | succ j =>
        have := h4 j (by simpa using hj)
        rw [show i + (j + 1) = i + 1 + j by omega]
        exact this
    · rintro ⟨h1, h2⟩
      cases cs with
      | nil => simp at h1
      | cons c ds =>
        refine ⟨c, h2 0 (by simp), ds, ⟨by simpa using h1, fun j hj => ?_⟩, rfl⟩
        have := h2 (j + 1) (by simpa using hj)
        rw [show i + 1 + j = i + (j + 1) by omega]
        exact this

/-- A run of reads faults at one of its own cells: unwritten, or outside the buffer. -/
theorem fetchCells_error {S : Space} {m : Cells 16} {cap : Nat} {e : Fault} :
    ∀ {n i : Nat}, fetchCells S m cap i n = .error e →
      ∃ j, i ≤ j ∧ j < i + n ∧
        ((j < cap ∧ readCell m j = none ∧ e = .unwrittenCell S j) ∨ (cap ≤ j ∧ e = .outsideBuffer S j))
  | 0, i, h => by simp [fetchCells] at h
  | n + 1, i, h => by
    simp only [fetchCells, bind_error, fetchCell_error, pure, Except.pure, reduceCtorEq, and_false, exists_false,
      or_false] at h
    rcases h with h | ⟨c, -, h⟩
    · exact ⟨i, le_refl _, by omega, h⟩
    · obtain ⟨j, h1, h2, h3⟩ := fetchCells_error h
      exact ⟨j, by omega, by omega, h3⟩

/-- A run of reads succeeds when every one of its cells is inside the buffer and written. -/
theorem fetchCells_succeeds {S : Space} {m : Cells 16} {cap n i : Nat}
    (h : ∀ j, i ≤ j → j < i + n → j < cap ∧ (readCell m j).isSome) : ∃ cs, fetchCells S m cap i n = .ok cs := by
  cases hf : fetchCells S m cap i n with
  | ok cs => exact ⟨cs, rfl⟩
  | error e =>
    obtain ⟨j, h1, h2, h3⟩ := fetchCells_error hf
    have := h j h1 h2
    rcases h3 with h3 | h3
    · simp [h3.2.1] at this
    · omega

/-- Where two buffers agree on the cells of a run, the run reads the same. -/
theorem fetchCells_congr {S : Space} {m m' : Cells 16} {cap : Nat} :
    ∀ {n i : Nat}, (∀ j, i ≤ j → j < i + n → readCell m j = readCell m' j) →
      fetchCells S m cap i n = fetchCells S m' cap i n
  | 0, i, _ => rfl
  | n + 1, i, h => by
    have h0 : fetchCell S m cap i = fetchCell S m' cap i := by simp [fetchCell, h i (le_refl _) (by omega)]
    simp only [fetchCells, h0, fetchCells_congr (n := n) (i := i + 1) fun j h1 h2 => h j (by omega) (by omega)]

/-- A chunk at or beyond the end of the string has no cell to read (40_bitcodec.md R95). -/
theorem fetchChunk_beyond {S : Space} {m : Cells 16} {cap len idx : Nat} (h : len ≤ 4 * idx) :
    fetchChunk S m cap len idx = .ok [] := by
  simp [fetchChunk, chunkSize, show len - 4 * idx = 0 by omega, fetchCells]

/-- A buffer that holds a string gives the string's own chunks. -/
theorem fetchChunk_of_holds {S : Space} {m : Cells 16} {cap idx : Nat} {cs : List CharCell} (h : Holds m cs)
    (hc : cs.length ≤ cap) : fetchChunk S m cap cs.length idx = .ok ((cs.drop (4 * idx)).take 4) := by
  refine fetchCells_ok.mpr ⟨by simp [chunkSize], fun j hj => ?_⟩
  simp only [List.length_take, List.length_drop] at hj
  refine ⟨by omega, ?_⟩
  rw [h (4 * idx + j) (by omega)]
  simp

/-! ### The two packs, the schedule, the cipher, the digits -/

/-- A chunk of no characters packs to the all-zero block (40_bitcodec.md R95). -/
theorem packChunk_nil : packChunk [] = 0 := by decide +kernel

/-- The packed chunk as a number (40_bitcodec.md R90). -/
theorem packChunk_eq (cs : List CharCell) :
    packChunk cs = BitVec.ofNat 64 ((cs.getD 0 0).toNat * 2 ^ 48 + (cs.getD 1 0).toNat * 2 ^ 32 +
      (cs.getD 2 0).toNat * 2 ^ 16 + (cs.getD 3 0).toNat) := by
  apply BitVec.eq_of_toNat_eq
  unfold packChunk
  generalize cs.getD 0 0#16 = a, cs.getD 1 0#16 = b, cs.getD 2 0#16 = c, cs.getD 3 0#16 = d
  have ha := a.isLt
  have hb := b.isLt
  have hc := c.isLt
  have hd := d.isLt
  have glue : ∀ x y : Nat, y < 2 ^ 16 → x * 2 ^ 16 ||| y = x * 2 ^ 16 + y := fun x y h => by
    rw [Nat.mul_comm, Nat.two_pow_add_eq_or_of_lt h]
  simp only [BitVec.toNat_append, BitVec.toNat_ofNat, Nat.shiftLeft_eq]
  rw [glue _ _ hb, glue _ _ hc, glue _ _ hd]
  omega

theorem packPlain_ok {idx : Nat} {s t : State} :
    packPlain idx s = .ok t ↔ ∃ cs, plainChunk s idx = .ok cs ∧ t = s.setBlk (packChunk cs) := by
  simp only [packPlain, bind_ok, pure, Except.pure, Except.ok.injEq, eq_comm (a := t)]

theorem packPlain_error {idx : Nat} {s : State} {e : Fault} : packPlain idx s = .error e ↔ plainChunk s idx = .error e := by
  simp [packPlain, bind_error, pure, Except.pure]

theorem packKey_ok {k : KeySel} {idx : Nat} {s t : State} :
    packKey k idx s = .ok t ↔ ∃ cs, keyChunk s k idx = .ok cs ∧ t = s.setSeg (packChunk cs) := by
  simp only [packKey, bind_ok, pure, Except.pure, Except.ok.injEq, eq_comm (a := t)]

theorem packKey_error {k : KeySel} {idx : Nat} {s : State} {e : Fault} :
    packKey k idx s = .error e ↔ keyChunk s k idx = .error e := by
  simp [packKey, bind_error, pure, Except.pure]

theorem storeBlock_ok {idx : Nat} {ds : List DigitCell} {s t : State} :
    storeBlock idx ds s = .ok t ↔ idx < ceil4 s.cfg.maxd ∧ t = s.setOmem (writeCells s.omem (16 * idx) ds) := by
  unfold storeBlock
  split <;> simp_all [eq_comm]

theorem storeBlock_error {idx : Nat} {ds : List DigitCell} {s : State} {e : Fault} :
    storeBlock idx ds s = .error e ↔ ceil4 s.cfg.maxd ≤ idx ∧ e = .outsideBuffer .omem (16 * idx) := by
  unfold storeBlock
  split <;> simp_all [eq_comm]

theorem cascSegment_ok {k : KeySel} {j : Nat} {s t : State} :
    cascSegment k j s = .ok t ↔ ∃ u, packKey k j s = .ok u ∧ t = encryptBlock (scheduleKeys u) := by
  simp only [cascSegment, bind_ok, pure, Except.pure, Except.ok.injEq, eq_comm (a := t)]

theorem cascSegment_error {k : KeySel} {j : Nat} {s : State} {e : Fault} :
    cascSegment k j s = .error e ↔ keyChunk s k j = .error e := by
  simp [cascSegment, bind_error, pure, Except.pure, packKey_error]

/-! ### What the cascade touches -/

/-- `t` differs from `s` at most in the registers and the buffer a running cascade works in (43_cascade.md R142). -/
structure OnlyCascade (s t : State) : Prop where
  same : t = { s with blk := t.blk, seg := t.seg, rk := t.rk, rkv := t.rkv, omem := t.omem }

theorem OnlyCascade.refl (s : State) : OnlyCascade s s := ⟨rfl⟩

theorem OnlyCascade.cfg {s t : State} (h : OnlyCascade s t) : t.cfg = s.cfg := by rw [h.same]

theorem OnlyCascade.dlen {s t : State} (h : OnlyCascade s t) : t.dlen = s.dlen := by rw [h.same]

theorem OnlyCascade.dmem {s t : State} (h : OnlyCascade s t) : t.dmem = s.dmem := by rw [h.same]

theorem OnlyCascade.klen {s t : State} (h : OnlyCascade s t) (k : KeySel) : klen t k = klen s k := by
  rw [h.same]; cases k <;> rfl

theorem OnlyCascade.kmem {s t : State} (h : OnlyCascade s t) (k : KeySel) : kmem t k = kmem s k := by
  rw [h.same]; cases k <;> rfl

theorem OnlyCascade.trans {s t u : State} (h1 : OnlyCascade s t) (h2 : OnlyCascade t u) : OnlyCascade s u :=
  ⟨by rw [h2.same, h1.same]⟩

theorem packPlain_only {idx : Nat} {s t : State} (h : packPlain idx s = .ok t) : OnlyCascade s t := by
  obtain ⟨cs, -, rfl⟩ := packPlain_ok.mp h
  exact ⟨rfl⟩

theorem cascSegment_only {k : KeySel} {j : Nat} {s t : State} (h : cascSegment k j s = .ok t) : OnlyCascade s t := by
  obtain ⟨u, hu, rfl⟩ := cascSegment_ok.mp h
  obtain ⟨cs, -, rfl⟩ := packKey_ok.mp hu
  exact ⟨rfl⟩

theorem cascKey_only {k : KeySel} {s t : State} (h : cascKey s k = .ok t) : OnlyCascade s t :=
  foldlM_keeps (P := OnlyCascade s) (fun _ _ _ _ hp hs => hp.trans (cascSegment_only hs)) (.refl s) h

theorem writeHex_only {b : Nat} {s t : State} (h : writeHex b s = .ok t) : OnlyCascade s t := by
  obtain ⟨-, rfl⟩ := storeBlock_ok.mp h
  exact ⟨rfl⟩

/-- One plaintext block, taken apart: the pack, the three keys, the digits. -/
theorem cascBlock_ok {b : Nat} {s t : State} :
    cascBlock s b = .ok t ↔ ∃ u v, packPlain b s = .ok u ∧
      [KeySel.key1, KeySel.key2, KeySel.key3].foldlM cascKey u = .ok v ∧ writeHex b v = .ok t := by
  simp only [cascBlock, bind_ok]
  exact ⟨fun ⟨u, h1, v, h2, h3⟩ => ⟨u, v, h1, h2, h3⟩, fun ⟨u, v, h1, h2, h3⟩ => ⟨u, h1, v, h2, h3⟩⟩

theorem cascKeys_only {ks : List KeySel} {s t : State} (h : ks.foldlM cascKey s = .ok t) : OnlyCascade s t :=
  foldlM_keeps (P := OnlyCascade s) (fun _ _ _ _ hp hs => hp.trans (cascKey_only hs)) (.refl s) h

theorem cascBlock_only {b : Nat} {s t : State} (h : cascBlock s b = .ok t) : OnlyCascade s t := by
  obtain ⟨u, v, h1, h2, h3⟩ := cascBlock_ok.mp h
  exact ((packPlain_only h1).trans (cascKeys_only h2)).trans (writeHex_only h3)

/-- The whole cascade, taken apart: the blocks in order, then `OLEN`. -/
theorem runCascade_ok {s t : State} :
    runCascade s = .ok t ↔ ∃ u, (List.range (ceil4 s.dlen.toNat)).foldlM cascBlock s = .ok u ∧
      t = u.setOlen (BitVec.ofNat 32 (16 * ceil4 s.dlen.toNat)) := by
  simp only [runCascade, bind_ok, pure, Except.pure, Except.ok.injEq, eq_comm (a := t)]

theorem cascBlocks_only {bs : List Nat} {s t : State} (h : bs.foldlM cascBlock s = .ok t) : OnlyCascade s t :=
  foldlM_keeps (P := OnlyCascade s) (fun _ _ _ _ hp hs => hp.trans (cascBlock_only hs)) (.refl s) h

/-! ### Canonical buffers -/

/-- Storing a block keeps `OMEM` canonical. -/
theorem storeBlock_canonical {idx : Nat} {ds : List DigitCell} {s t : State} (h : storeBlock idx ds s = .ok t)
    (hd : ds.length = 16) (hc : Memory.canonical (ocap s.cfg) s.omem) : Memory.canonical (ocap t.cfg) t.omem := by
  obtain ⟨hi, rfl⟩ := storeBlock_ok.mp h
  exact writeCells_canonical _ hc (by simp only [ocap, State.setOmem_cfg]; omega)

/-- The keys of a block leave the output buffer alone. -/
theorem cascKeys_omem {ks : List KeySel} {s t : State} (h : ks.foldlM cascKey s = .ok t) : t.omem = s.omem := by
  refine foldlM_keeps (P := fun x => x.omem = s.omem) (fun k _ a b ha hb => ?_) rfl h
  refine foldlM_keeps (P := fun x => x.omem = s.omem) (fun j _ a b ha hb => ?_) ha hb
  obtain ⟨w, hw, rfl⟩ := cascSegment_ok.mp hb
  obtain ⟨cs, -, rfl⟩ := packKey_ok.mp hw
  exact ha

/-- A block of the cascade keeps `OMEM` canonical. -/
theorem cascBlock_canonical {b : Nat} {s t : State} (h : cascBlock s b = .ok t)
    (hc : Memory.canonical (ocap s.cfg) s.omem) : Memory.canonical (ocap t.cfg) t.omem := by
  obtain ⟨u, v, h1, h2, h3⟩ := cascBlock_ok.mp h
  refine storeBlock_canonical h3 (hexDigits_length _) ?_
  rw [((packPlain_only h1).trans (cascKeys_only h2)).cfg, cascKeys_omem h2]
  obtain ⟨cs, -, rfl⟩ := packPlain_ok.mp h1
  exact hc

/-- The blocks of a cascade keep `OMEM` canonical. -/
theorem cascBlocks_canonical {bs : List Nat} {s t : State} (h : bs.foldlM cascBlock s = .ok t)
    (hc : Memory.canonical (ocap s.cfg) s.omem) : Memory.canonical (ocap t.cfg) t.omem :=
  foldlM_keeps (P := fun x => Memory.canonical (ocap x.cfg) x.omem) (fun _ _ _ _ hp hs => cascBlock_canonical hs hp)
    hc h

/-- A block of the cascade stores its own sixteen cells and no other. -/
theorem cascBlock_outside {b j : Nat} {s t : State} (h : cascBlock s b = .ok t) (hj : j < 16 * b ∨ 16 * b + 16 ≤ j) :
    readCell t.omem j = readCell s.omem j := by
  obtain ⟨u, v, h1, h2, h3⟩ := cascBlock_ok.mp h
  obtain ⟨-, rfl⟩ := storeBlock_ok.mp h3
  rw [State.setOmem_omem, readCell_writeCells_outside _ _ _ (by simpa using hj), cascKeys_omem h2]
  obtain ⟨cs, -, rfl⟩ := packPlain_ok.mp h1
  rfl

end Sys2Proof.Machine
end

