-- ==== Sys2Proof/Laws/Step.lean ====
section
/-! SUPPORT. What a step can do, said once: the outcome of each command, the effect of each host move, and the four kinds
of turn. -/

namespace Sys2Proof.Machine

/-! ### The outcome of each command -/

theorem exec_nop (s : State) : exec .nop s = .next (finish s) := rfl

theorem exec_clr (s : State) : exec .clr s = .next (finish (clearRegisters s)) := rfl

theorem exec_ksched (s : State) : exec .ksched s = .next (finish (scheduleKeys s)) := rfl

theorem exec_encr (s : State) : exec .encr s = .next (finish (encryptBlock s)) := rfl

theorem exec_nop_next {s t : State} : exec .nop s = .next t ↔ t = finish s := by
  rw [exec_nop, Host.Outcome.next.injEq, eq_comm]

theorem exec_clr_next {s t : State} : exec .clr s = .next t ↔ t = finish (clearRegisters s) := by
  rw [exec_clr, Host.Outcome.next.injEq, eq_comm]

theorem exec_ksched_next {s t : State} :
    exec .ksched s = .next t ↔ t = finish (s.setSchedule (derive s.cfg.tables s.seg)) := by
  rw [exec_ksched, Host.Outcome.next.injEq, eq_comm, scheduleKeys]

theorem exec_encr_next {s t : State} :
    exec .encr s = .next t ↔ t = finish (s.setBlk (encrypt s.cfg.tables s.blk s.rk)) := by
  rw [exec_encr, Host.Outcome.next.injEq, eq_comm, encryptBlock]

theorem exec_packd_next {idx : Nat} {s t : State} :
    exec (.packd idx) s = .next t ↔ ∃ cs, plainChunk s idx = .ok cs ∧ t = finish (s.setBlk (packChunk cs)) := by
  simp only [exec, execPackd, toOutcome_next, map_ok, packPlain_ok]
  constructor
  · rintro ⟨u, ⟨cs, h, rfl⟩, rfl⟩; exact ⟨cs, h, rfl⟩
  · rintro ⟨cs, h, rfl⟩; exact ⟨_, ⟨cs, h, rfl⟩, rfl⟩

theorem exec_packd_fault {idx : Nat} {s : State} {e : Fault} :
    exec (.packd idx) s = .fault e ↔ plainChunk s idx = .error e := by
  simp only [exec, execPackd, toOutcome_fault, map_error, packPlain_error]

theorem exec_packk_next {k : KeySel} {idx : Nat} {s t : State} :
    exec (.packk k idx) s = .next t ↔ ∃ cs, keyChunk s k idx = .ok cs ∧ t = finish (s.setSeg (packChunk cs)) := by
  simp only [exec, execPackk, toOutcome_next, map_ok, packKey_ok]
  constructor
  · rintro ⟨u, ⟨cs, h, rfl⟩, rfl⟩; exact ⟨cs, h, rfl⟩
  · rintro ⟨cs, h, rfl⟩; exact ⟨_, ⟨cs, h, rfl⟩, rfl⟩

theorem exec_packk_fault {k : KeySel} {idx : Nat} {s : State} {e : Fault} :
    exec (.packk k idx) s = .fault e ↔ keyChunk s k idx = .error e := by
  simp only [exec, execPackk, toOutcome_fault, map_error, packKey_error]

theorem exec_hexo_next {idx : Nat} {s t : State} :
    exec (.hexo idx) s = .next t ↔ idx < ceil4 s.cfg.maxd ∧
      t = finish ((s.setOmem (writeCells s.omem (16 * idx) (hexDigits s.blk))).setOlen
        (BitVec.ofNat 32 (16 * (idx + 1)))) := by
  simp only [exec, execHexo, toOutcome_next, map_ok, writeHex, storeBlock_ok]
  constructor
  · rintro ⟨u, ⟨h, rfl⟩, rfl⟩; exact ⟨h, rfl⟩
  · rintro ⟨h, rfl⟩; exact ⟨_, ⟨h, rfl⟩, rfl⟩

theorem exec_hexo_fault {idx : Nat} {s : State} {e : Fault} :
    exec (.hexo idx) s = .fault e ↔ ceil4 s.cfg.maxd ≤ idx ∧ e = .outsideBuffer .omem (16 * idx) := by
  simp only [exec, execHexo, toOutcome_fault, map_error, writeHex, storeBlock_error]

theorem exec_casc_next {s t : State} :
    exec .casc s = .next t ↔ ∃ u, (List.range (ceil4 s.dlen.toNat)).foldlM cascBlock s = .ok u ∧
      t = finish (u.setOlen (BitVec.ofNat 32 (16 * ceil4 s.dlen.toNat))) := by
  simp only [exec, execCasc, toOutcome_next, map_ok, runCascade_ok]
  constructor
  · rintro ⟨v, ⟨u, h, rfl⟩, rfl⟩; exact ⟨u, h, rfl⟩
  · rintro ⟨u, h, rfl⟩; exact ⟨_, ⟨u, h, rfl⟩, rfl⟩

theorem exec_casc_fault {s : State} {e : Fault} :
    exec .casc s = .fault e ↔ (List.range (ceil4 s.dlen.toNat)).foldlM cascBlock s = .error e := by
  simp only [exec, execCasc, toOutcome_fault, map_error, runCascade, bind_error, pure, Except.pure, reduceCtorEq,
    and_false, exists_false, or_false]

/-- No command is refused once it is accepted: "completion cannot fail" (20_memory.md R57). -/
theorem exec_never_refused (i : Instr) (s : State) (c : Refusal) : exec i s ≠ .refused c := by
  cases i <;> simp [exec, execNop, execClr, execPackd, execPackk, execKsched, execEncr, execCasc, execHexo]

/-! ### The effect of a host move -/

theorem decode_error_ne_none {v : BitVec 64} {c : ErrCode} (h : decode v = .error c) : c ≠ .none := by
  rintro rfl
  simp only [decode, decodeN, decodeI, decodeKI] at h
  repeat' split at h
  all_goals simp at h

theorem issueError_ne_none {s : State} {i : Instr} {c : ErrCode} (h : issueError s i = some c) : c ≠ .none := by
  rintro rfl
  cases i <;> simp [issueError] at h

/-- Everything a host move can do to the state. -/
inductive MoveEffect (s : State) : State → Prop
  /-- A command word is dropped while an error is pending. -/
  | dropped : s.err = true → MoveEffect s s
  /-- An error is raised. -/
  | raised (c : ErrCode) : c ≠ .none → MoveEffect s (raiseError c s)
  /-- A read is answered. -/
  | answered (v : BitVec 64) : MoveEffect s (s.setReply v)
  /-- A read is answered with 0 beside an error. -/
  | answeredError : MoveEffect s ((raiseError .addr s).setReply 0)
  /-- A read is answered by a free draw. -/
  | drew (v : BitVec 64) : s.busy = true → MoveEffect s (s.setReply v).draw
  /-- A command is accepted. -/
  | accepted (v : BitVec 64) (i : Instr) : s.busy = false → decode v = .ok i →
      (s.err = false ∨ i = .clr) → issueError s i = none → MoveEffect s (accept v s)
  | wroteDlen (v : BitVec 64) : s.busy = false → v.toNat ≤ s.cfg.maxd → MoveEffect s (s.setDlen (v.setWidth 32))
  | wroteKlen (k : KeySel) (v : BitVec 64) : s.busy = false → v.toNat ≤ s.cfg.maxk →
      MoveEffect s (s.setKlen k (v.setWidth 32))
  | wroteBlk (v : BitVec 64) : s.busy = false → MoveEffect s (s.setBlk v)
  | wroteSeg (v : BitVec 64) : s.busy = false → MoveEffect s (s.setSeg v)
  | wroteDmem (i : Nat) (v : CharCell) : s.busy = false → i < s.cfg.maxd →
      MoveEffect s (s.setDmem (writeCell s.dmem i v))
  | wroteKmem (k : KeySel) (i : Nat) (v : CharCell) : s.busy = false → i < s.cfg.maxk →
      MoveEffect s (s.setKmem k (writeCell (kmem s k) i v))

/-- The issue of a command accepts it, raises one error, or drops the word (20_memory.md R57). -/
theorem issue_effect {v : BitVec 64} {s : State} (hb : s.busy = false) : MoveEffect s (issue v s) := by
  unfold issue
  split
  · next c hd =>
    split
    · next he => exact .dropped he
    · exact .raised c (decode_error_ne_none hd)
  · next i hd =>
    split
    · next he =>
      split
      · next hi => exact .accepted v i hb hd (Or.inr hi) (by simp [hi, issueError])
      · exact .dropped he
    · next he =>
      split
      · next c hc => exact .raised c (issueError_ne_none hc)
      · next hc => exact .accepted v i hb hd (Or.inl (by simpa using he)) hc

/-- A host move has one of the effects of `MoveEffect`. -/
theorem hostMove_effect {m : HostMove} {s t : State} (h : hostMove m s = .ok t) : MoveEffect s t := by
  cases m with
  | regRead n =>
    simp only [hostMove, Except.ok.injEq, hostRegRead] at h
    subst h
    split
    · exact .answeredError
    · split
      · next hb => exact .drew _ (by simp_all)
      · exact .answered _
  | regWrite n v =>
    simp only [hostMove, Except.ok.injEq, hostRegWrite] at h
    subst h
    split
    · exact .raised _ (by simp)
    · next hb =>
      have hb : s.busy = false := by simpa using hb
      split
      · exact .raised _ (by simp)
      · next r _ =>
        cases r with
        | cmd => exact issue_effect hb
        | dlen =>
          simp only [writeReg]
          split
          · next hv => exact .wroteDlen v hb hv
          · exact .raised _ (by simp)
        | klen k =>
          simp only [writeReg]
          split
          · next hv => exact .wroteKlen k v hb hv
          · exact .raised _ (by simp)
        | blk => exact .wroteBlk v hb
        | seg => exact .wroteSeg v hb
        | _ => exact .raised _ (by simp)
  | memRead S i =>
    simp only [hostMove, hostMemRead] at h
    split at h
    · split at h
      · cases h
      · split at h
        · next hb =>
          cases h
          exact .drew _ (by simp_all)
        · cases h
          exact .answered _
    · cases h
      exact .answeredError
  | memWrite S i v =>
    simp only [hostMove, Except.ok.injEq, hostMemWrite] at h
    subst h
    split
    · exact .raised _ (by simp)
    · next hb =>
      have hb : s.busy = false := by simpa using hb
      cases S with
      | omem => exact .raised _ (by simp)
      | dmem =>
        simp only
        split
        · next hi => exact .wroteDmem i v hb hi
        · exact .raised _ (by simp)
      | kmem k =>
        simp only
        split
        · next hi => exact .wroteKmem k i v hb hi
        · exact .raised _ (by simp)

/-! ### The four kinds of turn -/

/-- What a step that answers a next state did: the engine was idle, completed the latched command, a host move was made,
or the engine was reset; the turn is struck off the agenda first. -/
theorem step_cases {s t : State} (h : step s = .next t) :
    (s.busy = false ∧ t = s.setAgenda s.agenda.tail) ∨
    (s.busy = true ∧ engineIsNext s ∧ ∃ i, decode (cmdValue s.cmdl) = .ok i ∧
      exec i (s.setAgenda s.agenda.tail) = .next t) ∨
    (∃ m, s.agenda.head? = some (.host m) ∧ hostMove m (s.setAgenda s.agenda.tail) = .ok t) ∨
    (s.agenda.head? = some .reset ∧ t = resetEngine (s.setAgenda s.agenda.tail)) := by
  have engine : ∀ u : State, u = s.setAgenda s.agenda.tail → engineIsNext s → engineTurn u = .next t →
      (s.busy = false ∧ t = s.setAgenda s.agenda.tail) ∨
      (s.busy = true ∧ engineIsNext s ∧ ∃ i, decode (cmdValue s.cmdl) = .ok i ∧
        exec i (s.setAgenda s.agenda.tail) = .next t) := by
    rintro u rfl hn h
    unfold engineTurn at h
    split at h
    · next hb =>
      split at h
      · next i hd => exact Or.inr ⟨hb, hn, i, hd, h⟩
      · cases h
    · next hb =>
      cases h
      exact Or.inl ⟨by simpa using hb, rfl⟩
  unfold step at h
  split at h
  · next ha =>
    rcases engine s (by cases s; simp_all [State.setAgenda]) (Or.inl ha) h with h | h
    · exact Or.inl h
    · exact Or.inr (Or.inl h)
  · next turn ts ha =>
    cases turn with
    | engine =>
      rcases engine _ (by rw [ha]; rfl) (Or.inr (by rw [ha]; rfl)) h with h | h
      · exact Or.inl h
      · exact Or.inr (Or.inl h)
    | host m => exact Or.inr (Or.inr (Or.inl ⟨m, by rw [ha]; rfl, by rw [ha]; exact toOutcome_next.mp h⟩))
    | reset =>
      cases h
      exact Or.inr (Or.inr (Or.inr ⟨by rw [ha]; rfl, by rw [ha]; rfl⟩))

end Sys2Proof.Machine
end

