-- ==== Sys2Proof/Laws/Cascade.lean ====
section
/-! SUPPORT. The cascade over loaded buffers (43_cascade.md R140, R142, R151), block by block, and running an agenda turn
by turn. -/

namespace Sys2Proof.Machine

/-- What one key segment does: pack, schedule, encrypt (43_cascade.md R142). -/
theorem cascSegment_of_chunk {s : State} {k : KeySel} {j : Nat} {cs : List CharCell} (h : keyChunk s k j = .ok cs) :
    cascSegment k j s = .ok { s with
      blk := encrypt s.cfg.tables s.blk (derive s.cfg.tables (packChunk cs))
      seg := packChunk cs
      rk := derive s.cfg.tables (packChunk cs)
      rkv := true } :=
  cascSegment_ok.mpr ⟨_, packKey_ok.mpr ⟨cs, h, rfl⟩, rfl⟩

/-- What a list of key segments leaves: the block taken through all of them, and the last one in `SEG` and `RK`
(43_cascade.md R151). -/
def afterSegments (segs : List Block) (s : State) : State := { s with
  blk := encryptUnder s.cfg.tables segs s.blk
  seg := segs.getLast?.getD s.seg
  rk := (segs.getLast?.map (derive s.cfg.tables)).getD s.rk
  rkv := segs.getLast?.isSome || s.rkv }

/-- Segments one list after the other (43_cascade.md R147). -/
theorem afterSegments_append (a b : List Block) (s : State) :
    afterSegments b (afterSegments a s) = afterSegments (a ++ b) s := by
  unfold afterSegments encryptUnder
  rw [List.foldl_append]
  cases h : b.getLast? with
  | none =>
    rw [List.getLast?_eq_none_iff] at h
    subst h
    simp
  | some g => simp [List.getLast?_append, h]

/-- A run of segments whose chunks are readable leaves what `afterSegments` says (43_cascade.md R142). -/
theorem segments_fold {s : State} {k : KeySel} {f : Nat → List CharCell} :
    ∀ {l : List Nat} , (∀ j ∈ l, ∀ t, OnlyCascade s t → keyChunk t k j = .ok (f j)) → ∀ {t}, OnlyCascade s t →
      l.foldlM (fun s j => cascSegment k j s) t = .ok (afterSegments (l.map fun j => packChunk (f j)) t)
  | [], _, t, _ => by
    simp [afterSegments, encryptUnder, pure, Except.pure]
  | j :: l, h, t, ht => by
    rw [List.foldlM_cons, cascSegment_of_chunk (h j (by simp) t ht)]
    have hu : OnlyCascade t (afterSegments [packChunk (f j)] t) := ⟨rfl⟩
    have := segments_fold (l := l) (fun i hi => h i (List.mem_cons_of_mem _ hi)) (ht.trans hu)
    rw [afterSegments_append] at this
    exact this


/-- A key buffer that holds a string: the key takes the block through the string's segments (43_cascade.md R142). -/
theorem cascKey_of_holds {s : State} {k : KeySel} {key : List CharCell} (h : Holds (kmem s k) key)
    (hl : (klen s k).toNat = key.length) (hc : key.length ≤ s.cfg.maxk) :
    cascKey s k = .ok (afterSegments (keySegments key) s) := by
  unfold cascKey
  rw [hl]
  refine segments_fold (s := s) (f := fun j => (key.drop (4 * j)).take 4) (fun j _ t ht => ?_) (.refl s)
  rw [keyChunk, ht.kmem, ht.klen, ht.cfg, hl]
  exact fetchChunk_of_holds h hc

/-- Segments touch only what a cascade may. -/
theorem afterSegments_only (segs : List Block) (s : State) : OnlyCascade s (afterSegments segs s) := ⟨rfl⟩

/-- One block of a loaded engine: its digits are those of the chunk taken through all segments (43_cascade.md R140). -/
theorem cascBlock_of_loaded {s t : State} {data key1 key2 key3 : List CharCell} (h : Loaded s data key1 key2 key3)
    (hl : LengthsLegal s) (ht : OnlyCascade s t) {b : Nat} (hb : b < ceil4 data.length) :
    cascBlock t b = .ok ((afterSegments (keySegments key1 ++ keySegments key2 ++ keySegments key3)
      (t.setBlk (packString data b))).setOmem (writeCells t.omem (16 * b)
        (hexDigits (encryptUnder s.cfg.tables (keySegments key1 ++ keySegments key2 ++ keySegments key3)
          (packString data b))))) := by
  obtain ⟨hd, h1, h2, h3, -⟩ := hl
  have hp : packPlain b t = .ok (t.setBlk (packString data b)) := by
    refine packPlain_ok.mpr ⟨_, ?_, rfl⟩
    rw [plainChunk, ht.dmem, ht.dlen, ht.cfg, h.dlen]
    exact fetchChunk_of_holds h.dmem (h.dlen ▸ hd)
  have hk : ∀ (k : KeySel) (key : List CharCell) (u : State), OnlyCascade s u → Holds (kmem s k) key →
      (klen s k).toNat = key.length → (klen s k).toNat ≤ s.cfg.maxk →
      cascKey u k = .ok (afterSegments (keySegments key) u) := fun k key u hu a b c =>
    cascKey_of_holds (by rwa [hu.kmem]) (by rwa [hu.klen]) (by rw [hu.cfg]; omega)
  have hu : OnlyCascade s (t.setBlk (packString data b)) := ht.trans ⟨rfl⟩
  refine cascBlock_ok.mpr ⟨_, afterSegments (keySegments key1 ++ keySegments key2 ++ keySegments key3)
    (t.setBlk (packString data b)), hp, ?_, ?_⟩
  · rw [List.foldlM_cons, hk .key1 key1 _ hu h.k1mem h.k1len h1, List.append_assoc, ← afterSegments_append,
      ← afterSegments_append]
    show [KeySel.key2, KeySel.key3].foldlM cascKey _ = _
    rw [List.foldlM_cons, hk .key2 key2 _ (hu.trans (afterSegments_only _ _)) h.k2mem h.k2len h2]
    show [KeySel.key3].foldlM cascKey _ = _
    rw [List.foldlM_cons,
      hk .key3 key3 _ ((hu.trans (afterSegments_only _ _)).trans (afterSegments_only _ _)) h.k3mem h.k3len h3]
    rfl
  · refine storeBlock_ok.mpr ⟨?_, ?_⟩
    · show b < ceil4 t.cfg.maxd
      rw [ht.cfg]
      simp only [ceil4] at *
      have := h.dlen
      omega
    · show _ = _
      rw [← ht.cfg]
      rfl

/-- The digits of block `b` stand at `16 * b` in the concatenation (44_hexencoder.md R158). -/
theorem flatMap_block {α : Type} {f : Nat → List α} {n b i : Nat} (hb : b < n) (hi : i < 16)
    (hf : ∀ x, (f x).length = 16) : ((List.range n).flatMap f)[16 * b + i]? = (f b)[i]? := by
  induction n with
  | zero => omega
  | succ n ih =>
    have hl : ((List.range n).flatMap f).length = 16 * n := by simp [List.length_flatMap, hf, Nat.mul_comm]
    rw [List.range_succ, List.flatMap_append]
    by_cases h : b < n
    · rw [List.getElem?_append_left (by omega), ih h]
    · obtain rfl : b = n := by omega
      rw [List.getElem?_append_right (by omega), hl]
      simp

/-! ### Running an agenda -/

/-- No host move touches the turns to come. -/
theorem hostMove_agenda {m : HostMove} {s t : State} (h : hostMove m s = .ok t) : t.agenda = s.agenda := by
  cases hostMove_effect h <;> simp [raiseError, State.setKlen, State.setKmem, accept, State.draw] <;> split <;> rfl

/-- A host move at the head of the agenda is made, and the rest is run from what it leaves. -/
theorem runAgenda_host {s t : State} {m : HostMove} {ts : List Turn} (h : hostMove m (s.setAgenda ts) = .ok t) :
    runAgenda (s.setAgenda (.host m :: ts)) = runAgenda t := by
  have ha : t.agenda = ts := hostMove_agenda h
  have hs : step (s.setAgenda (.host m :: ts)) = .next t := by
    show toOutcome (hostMove m (s.setAgenda ts)) = _
    rw [h]
    rfl
  unfold runAgenda
  rw [ha]
  show Host.Core.run _ (ts.length + 1) _ = _
  simp only [Host.Core.run, hs]

/-- The engine's turn with a command in flight completes it, and the rest is run from what it leaves. -/
theorem runAgenda_engine {s t : State} {i : Instr} {ts : List Turn} (hb : s.busy = true)
    (hd : decode (cmdValue s.cmdl) = .ok i) (h : exec i (s.setAgenda ts) = .next t) (ha : t.agenda = ts) :
    runAgenda (s.setAgenda (.engine :: ts)) = runAgenda t := by
  have hs : step (s.setAgenda (.engine :: ts)) = .next t := by
    show engineTurn (s.setAgenda ts) = _
    simp only [engineTurn, State.setAgenda_busy, State.setAgenda_cmdl, hb, hd, if_true]
    exact h
  unfold runAgenda
  rw [ha]
  show Host.Core.run _ (ts.length + 1) _ = _
  simp only [Host.Core.run, hs]

/-- An empty agenda is run already. -/
theorem runAgenda_nil (s : State) : runAgenda (s.setAgenda []) = .next (s.setAgenda []) := rfl

end Sys2Proof.Machine
end

