-- ==== Sys2Proof/Laws/Host.lean ====
section
/-! SUPPORT. The register map by number, and the word a command leaves in the latch. -/

namespace Sys2Proof.Machine

/-- The numbers 0x10 to 0x1F are the round keys (10_state.md R22). -/
theorem regOf_rk (i : Fin 16) : regOf (0x10 + i) = some (.rk i) := by
  revert i; decide

/-- The numbers 0x0B to 0x0F and 0x20 and above are unmapped (10_state.md section 3). -/
theorem regOf_unmapped {n : Nat} (h : (0x0B ≤ n ∧ n ≤ 0x0F) ∨ 0x20 ≤ n) : regOf n = none := by
  unfold regOf
  repeat rw [if_neg (by omega)]
  rw [dif_neg (by omega)]

/-- Every number is one of the map's: a register with a number of its own, a round key, or none. -/
theorem regOf_cases (n : Nat) :
    n ≤ 0x0A ∨ (∃ i : Fin 16, n = 0x10 + i ∧ regOf n = some (.rk i)) ∨ regOf n = none := by
  by_cases h1 : n ≤ 0x0A
  · exact Or.inl h1
  · by_cases h2 : 0x10 ≤ n ∧ n ≤ 0x1F
    · refine Or.inr (Or.inl ⟨⟨n - 0x10, by omega⟩, by simp; omega, ?_⟩)
      have := regOf_rk ⟨n - 0x10, by omega⟩
      rwa [show 0x10 + (⟨n - 0x10, by omega⟩ : Fin 16).val = n by simp; omega] at this
    · exact Or.inr (Or.inr (regOf_unmapped (by omega)))

/-- Bits 31:0 of a value. -/
theorem setWidth_eq_low (v : BitVec 64) : v.setWidth 32 = v.extractLsb' 0 32 := by
  apply BitVec.eq_of_toNat_eq
  simp

/-- A value whose bits 63:32 are 0 is the word in its low half, zero-extended. -/
theorem cmdValue_low {v : BitVec 64} (h : v.extractLsb' 32 32 = 0#32) : cmdValue (v.setWidth 32) = v := by
  have h' := congrArg BitVec.toNat h
  simp only [BitVec.extractLsb'_toNat, BitVec.toNat_ofNat, Nat.shiftRight_eq_div_pow] at h'
  apply BitVec.eq_of_toNat_eq
  simp only [cmdValue, BitVec.toNat_setWidth]
  have := v.isLt
  omega

/-- A value that decodes has nothing above its word (30_encoding.md R71). -/
theorem high_zero_of_decode {v : BitVec 64} {i : Instr} (h : decode v = .ok i) : v.extractLsb' 32 32 = 0#32 := by
  simp only [decode, decodeN, decodeI, decodeKI] at h
  repeat' split at h
  all_goals simp_all

/-- What is latched at acceptance decodes to the command accepted (20_memory.md R57, R65). -/
theorem decode_latched {v : BitVec 64} {i : Instr} (h : decode v = .ok i) : decode (cmdValue (v.setWidth 32)) = .ok i := by
  rw [cmdValue_low (high_zero_of_decode h), h]

/-- Issue decides on the precondition as the state stands; nothing but the schedule flag and the capacity enters it. -/
theorem issueError_congr {s t : State} (h1 : t.rkv = s.rkv) (h2 : t.cfg = s.cfg) (i : Instr) :
    issueError t i = issueError s i := by
  cases i <;> simp [issueError, h1, h2]

/-- A write into `DMEM` that passes its checks. -/
theorem hostMemWrite_dmem {s : State} {i : Nat} (v : CharCell) (hb : s.busy = false) (hi : i < s.cfg.maxd) :
    hostMemWrite .dmem i v s = s.setDmem (writeCell s.dmem i v) := by
  simp [hostMemWrite, hb, hi]

/-- A host write keeps every buffer canonical. -/
theorem hostMemWrite_wf {S : Space} {i : Nat} {v : CharCell} {s : State} (h : Memory.wf s) :
    Memory.wf (hostMemWrite S i v s) := by
  unfold hostMemWrite
  split
  · simpa [Memory.wf] using h
  · cases S with
    | omem => simpa [Memory.wf] using h
    | dmem =>
      simp only
      split
      · next hi => exact ⟨writeCell_canonical v h.1 hi, h.2⟩
      · simpa [Memory.wf] using h
    | kmem k =>
      simp only
      split
      · next hi =>
        cases k
        · exact ⟨h.1, writeCell_canonical v h.2.1 hi, h.2.2⟩
        · exact ⟨h.1, h.2.1, writeCell_canonical v h.2.2.1 hi, h.2.2.2⟩
        · exact ⟨h.1, h.2.1, h.2.2.1, writeCell_canonical v h.2.2.2.1 hi, h.2.2.2.2⟩
      · simpa [Memory.wf] using h

/-- A write into a key buffer that passes its checks. -/
theorem hostMemWrite_kmem {s : State} {i : Nat} (k : KeySel) (v : CharCell) (hb : s.busy = false)
    (hi : i < s.cfg.maxk) : hostMemWrite (.kmem k) i v s = s.setKmem k (writeCell (kmem s k) i v) := by
  simp [hostMemWrite, hb, hi]

end Sys2Proof.Machine
end

