-- ==== Sys2Proof/Laws/PerInstr.lean ====
section
/-! SUPPORT. A statement about every instruction as syntax: its word carries the fixed bits of its row of the opcode map
(30_encoding.md R74), one lemma for each constructor. -/

namespace Sys2Proof.Laws.EncodeRow

/-- "a 32-bit word `w` selects the command (`w & mask == match`)" (30_encoding.md R74): the encoder's word does. -/
def Statement (i : Instr) : Prop := encode i &&& rowMask i = rowMatch i

theorem nop : Statement .nop := by unfold Statement; decide

theorem clr : Statement .clr := by unfold Statement; decide

theorem packd (idx : Nat) : Statement (.packd idx) := by
  simp only [Statement, encode, rowMask, rowMatch, wordI]
  generalize BitVec.ofNat 16 idx = x
  apply BitVec.eq_of_getLsbD_eq
  intro i hi
  rw [BitVec.getLsbD_and, BitVec.getLsbD_append]
  interval_cases i <;> simp

theorem packk (ksel : KeySel) (idx : Nat) : Statement (.packk ksel idx) := by
  simp only [Statement, encode, rowMask, rowMatch, wordKI]
  generalize BitVec.ofNat 16 idx = x
  apply BitVec.eq_of_getLsbD_eq
  intro i hi
  rw [BitVec.getLsbD_and, BitVec.getLsbD_append, BitVec.getLsbD_append, BitVec.getLsbD_append]
  cases ksel <;> interval_cases i <;> simp [keySelBits]

theorem ksched : Statement .ksched := by unfold Statement; decide

theorem encr : Statement .encr := by unfold Statement; decide

theorem casc : Statement .casc := by unfold Statement; decide

theorem hexo (idx : Nat) : Statement (.hexo idx) := by
  simp only [Statement, encode, rowMask, rowMatch, wordI]
  generalize BitVec.ofNat 16 idx = x
  apply BitVec.eq_of_getLsbD_eq
  intro i hi
  rw [BitVec.getLsbD_and, BitVec.getLsbD_append]
  interval_cases i <;> simp

end Sys2Proof.Laws.EncodeRow
end

