-- ==== Sys2Proof/Laws/Reframe.lean ====
section
/-! SUPPORT. What a command does not look at: the shell's own fields (flags but `RKV`, the error code, the latch, and the
model's fields). With other values there a command does the same to everything else (20_memory.md R58, R59). -/

namespace Sys2Proof.Machine

/-- `s` with the shell's fields of `u`. -/
def reframe (u s : State) : State := { s with
  busy := u.busy
  done := u.done
  err := u.err
  errcode := u.errcode
  cmdl := u.cmdl
  agenda := u.agenda
  reply := u.reply
  draws := u.draws }

/-- A loop commutes with what each of its rounds commutes with. -/
theorem foldlM_map {α : Type} {f : State → α → Result} {g : State → State}
    (h : ∀ s a, f (g s) a = (f s a).map g) : ∀ (l : List α) (s : State), l.foldlM f (g s) = (l.foldlM f s).map g
  | [], _ => rfl
  | a :: l, s => by
    rw [List.foldlM_cons, List.foldlM_cons, h]
    cases f s a with
    | ok t => exact foldlM_map h l t
    | error e => rfl

theorem packPlain_reframe (u s : State) (n : Nat) : packPlain n (reframe u s) = (packPlain n s).map (reframe u) := by
  show (do let cs ← plainChunk s n; return (reframe u s).setBlk (packChunk cs)) = _
  unfold packPlain
  cases plainChunk s n <;> rfl

theorem keyChunk_reframe (u s : State) (k : KeySel) (n : Nat) : keyChunk (reframe u s) k n = keyChunk s k n := by
  cases k <;> rfl

theorem packKey_reframe (u s : State) (k : KeySel) (n : Nat) :
    packKey k n (reframe u s) = (packKey k n s).map (reframe u) := by
  unfold packKey
  rw [keyChunk_reframe]
  cases keyChunk s k n <;> rfl

theorem writeHex_reframe (u s : State) (n : Nat) : writeHex n (reframe u s) = (writeHex n s).map (reframe u) := by
  unfold writeHex storeBlock
  show (if n < ceil4 s.cfg.maxd then _ else _) = _
  split <;> rfl

theorem cascSegment_reframe (u s : State) (k : KeySel) (n : Nat) :
    cascSegment k n (reframe u s) = (cascSegment k n s).map (reframe u) := by
  unfold cascSegment
  rw [packKey_reframe]
  cases packKey k n s <;> rfl

theorem cascKey_reframe (u s : State) (k : KeySel) : cascKey (reframe u s) k = (cascKey s k).map (reframe u) := by
  have h : klen (reframe u s) k = klen s k := by cases k <;> rfl
  unfold cascKey
  rw [h]
  exact foldlM_map (fun s j => cascSegment_reframe u s k j) _ s

theorem cascBlock_reframe (u s : State) (b : Nat) : cascBlock (reframe u s) b = (cascBlock s b).map (reframe u) := by
  unfold cascBlock
  rw [packPlain_reframe]
  cases packPlain b s with
  | error e => rfl
  | ok t =>
    show (do let s ← List.foldlM cascKey (reframe u t) [KeySel.key1, .key2, .key3]; writeHex b s) =
      (do let s ← List.foldlM cascKey t [KeySel.key1, .key2, .key3]; writeHex b s : Result).map (reframe u)
    rw [foldlM_map (cascKey_reframe u)]
    cases List.foldlM cascKey t [KeySel.key1, .key2, .key3] with
    | error e => rfl
    | ok v => exact writeHex_reframe u v b

/-- The cascade does not look at the shell's fields. -/
theorem runCascade_reframe (u s : State) : runCascade (reframe u s) = (runCascade s).map (reframe u) := by
  unfold runCascade
  show (do let t ← List.foldlM cascBlock (reframe u s) (List.range (ceil4 s.dlen.toNat)); return t.setOlen _) = _
  rw [foldlM_map (cascBlock_reframe u)]
  cases List.foldlM cascBlock s (List.range (ceil4 s.dlen.toNat)) <;> rfl

/-- A command but `CLR` completes the same whatever the shell's fields hold. -/
theorem exec_reframe_next {i : Instr} {s t : State} (u : State) (hi : i ≠ .clr) (h : exec i s = .next t) :
    exec i (reframe u s) = .next (finish (reframe u t)) := by
  cases i with
  | nop => cases h; rfl
  | clr => exact absurd rfl hi
  | packd n =>
    simp only [exec, execPackd, toOutcome_next, map_ok] at *
    obtain ⟨v, hv, rfl⟩ := h
    exact ⟨reframe u v, by rw [packPlain_reframe, hv]; rfl, rfl⟩
  | packk k n =>
    simp only [exec, execPackk, toOutcome_next, map_ok] at *
    obtain ⟨v, hv, rfl⟩ := h
    exact ⟨reframe u v, by rw [packKey_reframe, hv]; rfl, rfl⟩
  | ksched => cases h; rfl
  | encr => cases h; rfl
  | casc =>
    simp only [exec, execCasc, toOutcome_next, map_ok] at *
    obtain ⟨v, hv, rfl⟩ := h
    exact ⟨reframe u v, by rw [runCascade_reframe, hv]; rfl, rfl⟩
  | hexo n =>
    simp only [exec, execHexo, toOutcome_next, map_ok] at *
    obtain ⟨v, hv, rfl⟩ := h
    exact ⟨reframe u v, by rw [writeHex_reframe, hv]; rfl, rfl⟩

/-- A command faults the same whatever the shell's fields hold. -/
theorem exec_reframe_fault {i : Instr} {s : State} {e : Fault} (u : State) (h : exec i s = .fault e) :
    exec i (reframe u s) = .fault e := by
  cases i with
  | nop => cases h
  | clr => cases h
  | packd n =>
    simp only [exec, execPackd, toOutcome_fault, map_error] at *
    rw [packPlain_reframe, h]; rfl
  | packk k n =>
    simp only [exec, execPackk, toOutcome_fault, map_error] at *
    rw [packKey_reframe, h]; rfl
  | ksched => cases h
  | encr => cases h
  | casc =>
    simp only [exec, execCasc, toOutcome_fault, map_error] at *
    rw [runCascade_reframe, h]; rfl
  | hexo n =>
    simp only [exec, execHexo, toOutcome_fault, map_error] at *
    rw [writeHex_reframe, h]; rfl

/-- A step that completes the command in flight is `exec` of it, the engine's turn struck off the agenda. -/
theorem step_of_completesNext {s : State} {i : Instr} (h : completesNext s i) :
    step s = exec i (s.setAgenda s.agenda.tail) := by
  obtain ⟨hb, hn, hd⟩ := h
  rcases hn with ha | ha
  · have hs : s.setAgenda s.agenda.tail = s := by cases s; simp_all [State.setAgenda]
    rw [hs, step, ha]
    simp only [engineTurn, hb, hd, if_true]
  · obtain ⟨ts, ha⟩ : ∃ ts, s.agenda = .engine :: ts := by
      cases h : s.agenda <;> simp_all
    rw [step, ha]
    simp only [takeTurn, engineTurn, State.setAgenda_busy, State.setAgenda_cmdl, hb, hd, if_true, List.tail_cons]

end Sys2Proof.Machine
end

