-- ==== Sys2Proof/Tests/Slice0.lean ====
section
/-! SUPPORT. The model's own tests: ill-formed terms refused, words written out from 30_encoding.md R71 and R74, one-step
tests with the values of 95_test_vectors.md, and a witness for the hypotheses of every statement that has some. -/

namespace Sys2Proof.Tests

open Sys2Proof Sys2Proof.Machine

/- The kernel evaluates the cipher in some of these theorems: one after the other needs far less memory than at once. -/
set_option Elab.async false

/-! ## Well-formed commands: one ill-formed term for each check, and the largest well-formed one -/

theorem test_wellFormed_packd : WellFormed (.packd 65536) = false ∧ WellFormed (.packd 65535) = true := by decide

theorem test_wellFormed_packk :
    WellFormed (.packk .key1 65536) = false ∧ WellFormed (.packk .key3 65535) = true := by decide

theorem test_wellFormed_hexo : WellFormed (.hexo 65536) = false ∧ WellFormed (.hexo 65535) = true := by decide

/-! ## Words bit by bit: op in 31:24, then the fields of the format (30_encoding.md R71, R74) -/

theorem test_decode_nop : decode 0b00000000_000000000000000000000000 = .ok .nop := by decide

theorem test_decode_clr : decode 0b00000001_000000000000000000000000 = .ok .clr := by decide

theorem test_decode_packd : decode 0b00010000_00000000_1000000000000001 = .ok (.packd 32769) := by decide

theorem test_decode_packk : decode 0b00010001_10_000000_0000000100000010 = .ok (.packk .key2 258) := by decide

theorem test_decode_ksched : decode 0b00100000_000000000000000000000000 = .ok .ksched := by decide

theorem test_decode_encr : decode 0b00110000_000000000000000000000000 = .ok .encr := by decide

theorem test_decode_casc : decode 0b01000000_000000000000000000000000 = .ok .casc := by decide

theorem test_decode_hexo : decode 0b01010000_00000000_0000000000001111 = .ok (.hexo 15) := by decide

/-- Values that do not decode (95_test_vectors.md section 4.2), each by its own check and in the order of R75. -/
theorem test_decode_refused :
    decode 0x02000000 = .error .illop ∧ decode 0xFF000001 = .error .illop ∧ decode 0x30000001 = .error .rsv ∧
      decode 0x00000001 = .error .rsv ∧ decode 0x0000000100000000 = .error .rsv ∧
      decode 0x10010000 = .error .rsv ∧ decode 0x11010000 = .error .rsv ∧ decode 0x11000000 = .error .ksel := by
  decide

theorem test_decodeTableWord :
    decodeTableWord 32 0x11C00000 = some (.packk .key3 0) ∧ decodeTableWord 32 0x11000000 = none := by decide

/-- The encoder against the assembly table of 95_test_vectors.md section 4.1. -/
theorem test_encode : [Instr.nop, .clr, .packd 65535, .packk .key1 2, .packk .key2 0, .ksched, .encr, .casc, .hexo 1].map
    encode = [0x00000000, 0x01000000, 0x1000FFFF, 0x11400002, 0x11800000, 0x20000000, 0x30000000, 0x40000000,
      0x50000001] := by decide

/-! ## The tables and functions (95_test_vectors.md sections 1.8 and 2) -/

/-- "`FP[IP[j]] = j` for every `j` in 1..64" (section 1.8). -/
theorem test_fp_ip : ∀ j : Fin 64, fpPublished[ipPublished[j] - 1]? = some (j.val + 1) := by decide

/-- PC-1 discards the parity positions and takes every other position once (section 1.8). -/
theorem test_pc1 : (∀ x ∈ pc1Published.toList, x % 8 ≠ 0) ∧ pc1Published.toList.Nodup := by decide

/-- "Every row of every box is a permutation of 0..15" (42_blockcipher.md R124). -/
theorem test_sbox_rows : (sboxPublished.toList.all fun b => b.toList.all fun r =>
    (List.range 16).all fun x => r.toList.contains (BitVec.ofNat 4 x)) = true := by decide

/-- Single-bit checks of section 2.3: the reading direction of a table. -/
theorem test_permute : permute ipPublished (0x1 : BitVec 64) = 0x0000008000000000 ∧
    permute fpPublished (0x8000000000000000 : BitVec 64) = 0x0000000000000040 := by decide +kernel

/-- Section 2.4: the rows with `g = 0x20` and `g = 0x01` tell the two outer bits apart. -/
theorem test_sbox : sboxOut publishedTables 0 0x1B = 5 ∧ sboxOut publishedTables 4 0x20 = 4 ∧
    sboxOut publishedTables 4 0x01 = 14 ∧ sboxOut publishedTables 7 0x27 = 7 := by decide

/-- Section 2.4, round 0. -/
theorem test_feistelF : feistelF publishedTables 0xF0AAF0AA 0x1B02EFFC7072 = 0x234AA9BB := by decide +kernel

/-- Section 2.2: keys 0 and 15 of the published worked example, and a degenerate segment. -/
theorem test_derive : (derive publishedTables 0x133457799BBCDFF1)[0] = 0x1B02EFFC7072 ∧
    (derive publishedTables 0x133457799BBCDFF1)[15] = 0xCB3D8B0E17F5 ∧
    (derive publishedTables 0x0101010101010101)[7] = 0 := by decide +kernel

/-- Sections 2.3 and 2.5: the published worked example and the last row. -/
theorem test_encrypt :
    encrypt publishedTables 0x0123456789ABCDEF (derive publishedTables 0x133457799BBCDFF1) = 0x85E813540F0AB405 ∧
    encrypt publishedTables 0x0061006200310032 (derive publishedTables 0x0031000000000000) = 0xEDBAC0D68715723E := by
  decide +kernel

/-- Section 2.6. -/
theorem test_hexDigits : hexDigits 0x0123456789ABCDEF = [0x30, 0x31, 0x32, 0x33, 0x34, 0x35, 0x36, 0x37, 0x38, 0x39,
    0x41, 0x42, 0x43, 0x44, 0x45, 0x46] := by decide +kernel

/-- Section 3.1, the document's padding literal, and section 3.3, "x" under "1", "2", "3". -/
theorem test_cascade : cascade publishedTables [0x78] [] [] [] = hexDigits 0x0078000000000000 ∧
    cascade publishedTables [0x78] [0x31] [0x32] [0x33] = hexDigits 0x2784B7B8C660E9C3 := by decide +kernel

/-! ## States of the tests -/

/-- The configuration of 95_test_vectors.md sections 4.2 and 5. -/
def cfg64 : Config := { maxd := 64, maxk := 16, tables := publishedTables }

/-- The reset state of sections 4.2 and 5. -/
def s0 : State := State.powerUp cfg64

/-- "abcde" in `DMEM`, "1" in `K1MEM`, the second key "22" without its second cell. -/
def loaded : State := { s0 with
  dmem := [(0, 0x61), (1, 0x62), (2, 0x63), (3, 0x64), (4, 0x65)]
  dlen := 5
  k1mem := [(0, 0x31)]
  k1len := 1 }

/-- "ab12" in `DMEM`, no key: the identity path (section 5, P1). -/
def ab12 : State := { s0 with dmem := [(0, 0x61), (1, 0x62), (2, 0x31), (3, 0x32)], dlen := 4 }

/-- A state with an error pending. -/
def failed : State := { s0 with err := true, errcode := .nokey }

/-- A command in flight, the engine's turn next. -/
def inFlight (i : Instr) (s : State) : State := { s with cmdl := encode i, busy := true, done := false }

/-- The next state of an outcome, and `s0` where there is none. -/
def nextOf : Host.Outcome State Fault Refusal → State
  | .next t => t
  | .fault _ => s0
  | .refused _ => s0

/-- Whether an outcome is a next state. -/
def isNext : Host.Outcome State Fault Refusal → Bool
  | .next _ => true
  | .fault _ => false
  | .refused _ => false

/-- The fault of an outcome. -/
def faultOf : Host.Outcome State Fault Refusal → Option Fault
  | .next _ => none
  | .fault f => some f
  | .refused _ => none

/-- The state a host move leaves. -/
def after (m : HostMove) (s : State) : State := nextOf (toOutcome (hostMove m s))

/-! ## One step of every command -/

/-- Placed at reset, every command of the table is the first to run. -/
theorem test_placed_runs :
    ∀ w ∈ [0x00000000, 0x01000000, 0x10000000, 0x11400000, 0x20000000, 0x30000000, 0x40000000, 0x50000000],
      isNext (step (State.reset.withFetchWord 32 w)) = true := by decide

/-- 45_control.md R160: `NOP` leaves every register as it was and ends with `DONE = 1`. -/
theorem test_nop : let t := nextOf (exec .nop (inFlight .nop loaded))
    t.dlen = 5 ∧ t.done = true ∧ t.busy = false := by decide

/-- 45_control.md R161: `CLR` clears the error and the lengths, the buffers survive. -/
theorem test_clr : let t := nextOf (exec .clr (inFlight .clr { loaded with err := true, errcode := .nokey }))
    t.err = false ∧ t.errcode = .none ∧ t.done = true ∧ t.dlen = 0 ∧ t.k1len = 0 ∧ readCell t.dmem 4 = some 0x65 := by
  decide

/-- 95_test_vectors.md section 2.1: "abcde", chunks 0, 1, 2 and 65535. -/
theorem test_packd : [0, 1, 2, 65535].map (fun i => (nextOf (exec (.packd i) loaded)).blk) =
    [0x0061006200630064, 0x0065000000000000, 0, 0] := by decide +kernel

/-- 10_state.md R39: a cell below the length that was never written. -/
theorem test_packd_unwritten :
    faultOf (exec (.packd 1) { loaded with dlen := 7 }) = some (.unwrittenCell .dmem 5) := by decide

/-- 40_bitcodec.md R94: `K1MEM = "1"`, `PACKK 1, 0`; an empty key slot packs to 0. -/
theorem test_packk : (nextOf (exec (.packk .key1 0) loaded)).seg = 0x0031000000000000 ∧
    (nextOf (exec (.packk .key2 0) { loaded with seg := 7 })).seg = 0 := by decide +kernel

/-- 41_keyscheduler.md R101. -/
theorem test_ksched : let t := nextOf (exec .ksched { s0 with seg := 0x133457799BBCDFF1 })
    t.rk[0] = 0x1B02EFFC7072 ∧ t.rk[15] = 0xCB3D8B0E17F5 ∧ t.rkv = true ∧ t.seg = 0x133457799BBCDFF1 := by
  decide +kernel

/-- 42_blockcipher.md R116: `RK` all zero gives `Encrypt(0, Derive(0))`. -/
theorem test_encr : (nextOf (exec .encr { s0 with rkv := true })).blk = 0x8CA64DE9C1B123A7 := by decide +kernel

/-- 95_test_vectors.md section 3.1, the document's literal: "ab12" without a key. -/
theorem test_casc_identity : let t := nextOf (exec .casc ab12)
    (List.range 16).map (readCell t.omem) = (hexDigits 0x0061006200310032).map some ∧ t.olen = 16 ∧
      t.blk = 0x0061006200310032 ∧ t.rkv = false := by decide +kernel

/-- Section 3.2: "ab12" under "1". -/
theorem test_casc_keyed : let t := nextOf (exec .casc { ab12 with k1mem := [(0, 0x31)], k1len := 1 })
    t.blk = 0xEDBAC0D68715723E ∧ t.seg = 0x0031000000000000 ∧ t.rkv = true ∧ readCell t.omem 0 = some 0x45 := by
  decide +kernel

/-- 95_test_vectors.md section 4.2: `HEXO 15` writes `OMEM[240..255]`, `OLEN <- 256`, and leaves cell 239 unwritten. -/
theorem test_hexo : let t := nextOf (exec (.hexo 15) s0)
    readCell t.omem 239 = none ∧ readCell t.omem 240 = some 0x30 ∧ readCell t.omem 255 = some 0x30 ∧ t.olen = 256 := by
  decide +kernel

/-- 44_hexencoder.md R157: `HEXO 0` after `HEXO 3` leaves `OLEN = 16`. -/
theorem test_hexo_shrinks : (nextOf (exec (.hexo 0) { s0 with olen := 64, blk := 0x0078000000000000 })).olen = 16 ∧
    readCell (nextOf (exec (.hexo 0) { s0 with blk := 0x0078000000000000 })).omem 2 = some 0x37 := by decide +kernel

/-! ## The host's moves (95_test_vectors.md section 4.2) -/

/-- The refused moves, each with its code. -/
theorem test_refused_moves :
    [HostMove.regWrite 0x00 0x02000000, .regWrite 0x00 0xFF000001, .regWrite 0x00 0x30000001, .regWrite 0x00 0x11000000,
      .regWrite 0x00 0x50000010, .regWrite 0x00 0x30000000, .regWrite 0x03 65, .regWrite 0x05 17, .regWrite 0x01 0,
      .regWrite 0x10 0, .regRead 0x0B, .regRead 0x20, .memWrite .omem 0 0x30, .memWrite .dmem 64 0x61,
      .memRead (.kmem .key1) 16].map (fun m => (after m s0).errcode) =
    [.illop, .illop, .rsv, .ksel, .range, .nokey, .len, .len, .addr, .addr, .addr, .addr, .addr, .addr, .addr] := by
  decide

/-- `WR DLEN, 64`, `RD CAP`, `WR CMD, 0x5000000F`; `RM DMEM, 0` is a model fault. -/
theorem test_accepted_moves : (after (.regWrite 0x03 64) s0).dlen = 64 ∧
    (after (.regRead 0x0A) s0).reply = 0x0000001000000040 ∧ (after (.regWrite 0x00 0x5000000F) s0).busy = true ∧
    faultOf (toOutcome (hostMove (.memRead .dmem 0) s0)) = some (.unwrittenCell .dmem 0) := by decide

/-- Section 4.2: a write while busy is refused and the command still completes; section 5, P4: an error pending drops
`NOP`, lets a register write through and accepts `CLR`. -/
theorem test_busy_and_sticky : (after (.regWrite 0x08 5) (inFlight .nop s0)).errcode = .busy ∧
    (after (.regWrite 0x08 5) (inFlight .nop s0)).blk = 0 ∧ (after (.regWrite 0x00 0) failed).busy = false ∧
    (after (.regWrite 0x08 0x1234) failed).blk = 0x1234 ∧ (after (.regWrite 0x00 0x01000000) failed).busy = true ∧
    (after (.regWrite 0x01 0) failed).errcode = .nokey := by decide

/-- 70_reset_and_hazards.md R191: a reset with a command in flight makes `OMEM` unwritten, and only then. -/
theorem test_reset : (resetEngine (inFlight .casc { loaded with omem := [(3, 0x30)] })).omem = [] ∧
    (resetEngine { loaded with omem := [(3, 0x30)] }).omem = [(3, 0x30)] ∧
    (resetEngine (inFlight .casc loaded)).dmem = loaded.dmem := by decide

/-! ## Witnesses: the hypotheses of every statement that has some, met together, at the ends of their ranges -/

theorem next_of {o : Host.Outcome State Fault Refusal} (h : isNext o = true) : ∃ t, o = .next t := by
  cases o with
  | next t => exact ⟨t, rfl⟩
  | fault f => cases h
  | refused r => cases h

theorem loaded_inv : EngineInv loaded := ⟨by decide, by decide, by decide, by decide, fun h => absurd h (by decide)⟩

theorem inFlight_inv : EngineInv (inFlight .casc loaded) :=
  ⟨by decide, by decide, by decide, by decide, fun _ => ⟨.casc, by decide, by decide⟩⟩

theorem loaded_strings : Loaded loaded [0x61, 0x62, 0x63, 0x64, 0x65] [0x31] [] [] :=
  ⟨by decide, by decide, by decide, by decide, by unfold Holds; decide, by unfold Holds; decide,
    by unfold Holds; decide, by unfold Holds; decide⟩

theorem ab12_strings : Loaded ab12 [0x61, 0x62, 0x31, 0x32] [] [] [] :=
  ⟨by decide, by decide, by decide, by decide, by unfold Holds; decide, by unfold Holds; decide,
    by unfold Holds; decide, by unfold Holds; decide⟩

theorem witness_DecodeOfEncode : WellFormed (.packk .key3 65535) = true ∧ WellFormed (.hexo 0) = true := by decide

theorem witness_WordValues : (0 < 65536) ∧ (65535 < 65536) := by decide

theorem witness_OpcodeMapSelects : decode (cmdValue 0x11C0FFFF) = .ok (.packk .key3 65535) ∧
    (0x11C0FFFF &&& 0xFF3F0000#32 = 0x11000000#32) ∧ (0x11C0FFFF : CmdWord).extractLsb' 22 2 = keySelBits .key3 ∧
    ((0x11C0FFFF : CmdWord).extractLsb' 0 16).toNat = 65535 := by decide

theorem witness_DecodeChecksInOrder : decode 0xFFFFFFFF02FFFFFF = .error .illop ∧
    decode 0xFFFFFFFF11000000 = .error .rsv ∧ decode 0x1100FFFF = .error .ksel ∧
    decode 0x5000FFFF = .ok (.hexo 65535) := by decide

theorem witness_StepRunsLatchedCommand : (inFlight .casc loaded).busy = true ∧
    decode (cmdValue (inFlight .casc loaded).cmdl) = .ok .casc ∧ (inFlight .casc loaded).agenda = [] ∧
    ((inFlight .casc loaded).setAgenda [.engine, .reset]).agenda = .engine :: [.reset] := by decide

theorem witness_PlacedWordRunsNext : decodeTableWord 32 0x5000FFFF = some (.hexo 65535) := by decide

theorem witness_TurnsTakenInOrder :
    (loaded.setAgenda [.host (.regRead 0x01)]).agenda = .host (.regRead 0x01) :: [] ∧
    (loaded.setAgenda [.reset, .engine]).agenda = .reset :: [.engine] ∧
    (loaded.setAgenda [.engine]).agenda = .engine :: [] ∧ loaded.busy = false ∧ loaded.agenda = [] := by decide

theorem witness_ResetValues : cfg64.wf ∧ RegName.rk 15 ≠ .cap ∧ Space.dmem ≠ .omem ∧ loaded.busy = false ∧
    (inFlight .casc loaded).busy = true := by decide

theorem witness_InvariantsAtReset : cfg64.wf := by decide

theorem witness_StepKeepsInvariant : EngineInv (inFlight .casc loaded) ∧ ∃ t, step (inFlight .casc loaded) = .next t :=
  ⟨inFlight_inv, next_of (by decide)⟩

theorem witness_StepKeepsScheduleGenuine : (∃ s, s = inFlight .ksched loaded ∧ ScheduleGenuine s ∧
    ∃ t, step s = .next t) ∧ ∃ s : State, s.rkv = true ∧ ScheduleGenuine s ∧ ∃ t, step s = .next t :=
  ⟨⟨_, rfl, fun h => absurd h (by decide), next_of (by decide)⟩,
    ⟨loaded.setSchedule (derive loaded.cfg.tables 1), rfl, fun _ => ⟨1, rfl⟩, next_of (by decide)⟩⟩

theorem witness_StepKeepsOutputDigits : ∃ s, s = inFlight (.hexo 0) { loaded with omem := [(9, 0x46)] } ∧
    OutputDigits s ∧ ∃ t, step s = .next t :=
  ⟨_, rfl, fun p hp => ⟨15#4, by rw [List.mem_singleton.mp hp]; decide⟩, next_of (by decide)⟩

theorem witness_StepKeepsConfiguration : ∃ t, step (inFlight .clr loaded) = .next t := next_of (by decide)

theorem chunk_full : ChunkWritten loaded.dmem loaded.cfg.maxd loaded.dlen.toNat 0 := by
  rintro n ⟨-, h, -⟩
  interval_cases n <;> decide

theorem chunk_last : ChunkWritten loaded.dmem loaded.cfg.maxd loaded.dlen.toNat 1 := by
  rintro n ⟨h1, -, h3⟩
  obtain rfl : n = 4 := by
    have : loaded.dlen.toNat = 5 := by decide
    omega
  decide

theorem witness_PackdLoadsChunk : ChunkWritten loaded.dmem loaded.cfg.maxd loaded.dlen.toNat 0 ∧
    ChunkWritten loaded.dmem loaded.cfg.maxd loaded.dlen.toNat 1 := ⟨chunk_full, chunk_last⟩

theorem chunk_key : ChunkWritten (kmem loaded .key1) loaded.cfg.maxk (klen loaded .key1).toNat 0 := by
  rintro n ⟨-, -, h3⟩
  obtain rfl : n = 0 := by
    have : (klen loaded .key1).toNat = 1 := by decide
    omega
  decide

theorem witness_PackkLoadsChunk : ChunkWritten (kmem loaded .key1) loaded.cfg.maxk (klen loaded .key1).toNat 0 :=
  chunk_key

theorem witness_StageAppliesOneSegment :
    ChunkWritten (kmem loaded .key1) loaded.cfg.maxk (klen loaded .key1).toNat 0 ∧
      ∃ g, g = packValue (kmem loaded .key1) (klen loaded .key1).toNat 0 := ⟨chunk_key, _, rfl⟩

theorem witness_PackBeyondStringIsZero : ceil4 loaded.dlen.toNat ≤ 2 ∧ ceil4 (klen loaded .key1).toNat ≤ 1 ∧
    ceil4 (klen loaded .key2).toNat ≤ 0 := by decide

theorem witness_PackFaultsOnUnwrittenCell : ∃ s, s = { loaded with dlen := 7, k1len := 2 } ∧
    s.dlen.toNat ≤ s.cfg.maxd ∧ isChunkCell s.dlen.toNat 1 6 ∧ readCell s.dmem 6 = none ∧
    (klen s .key1).toNat ≤ s.cfg.maxk ∧ isChunkCell (klen s .key1).toNat 0 1 ∧ readCell (kmem s .key1) 1 = none :=
  ⟨_, rfl, by decide, by unfold isChunkCell; decide, by decide, by decide, by unfold isChunkCell; decide, by decide⟩

theorem witness_PackReadsOnlyItsChunk :
    (∀ n, isChunkCell loaded.dlen.toNat 1 n → readCell ([(4, 0x65), (5, 0x66)] : Cells 16) n = readCell loaded.dmem n) ∧
    (∃ t, exec (.packd 1) loaded = .next t) ∧
    (∀ n, isChunkCell (klen loaded .key1).toNat 0 n →
      readCell ([(0, 0x31), (1, 0x66)] : Cells 16) n = readCell (kmem loaded .key1) n) ∧
    ∃ t, exec (.packk .key1 0) loaded = .next t := by
  refine ⟨?_, next_of (by decide), ?_, next_of (by decide)⟩
  · rintro n ⟨h1, -, h3⟩
    obtain rfl : n = 4 := by
      have : loaded.dlen.toNat = 5 := by decide
      omega
    decide
  · rintro n ⟨-, -, h3⟩
    obtain rfl : n = 0 := by
      have : (klen loaded .key1).toNat = 1 := by decide
      omega
    decide

theorem witness_EncrRunsSixteenRounds : isNext (exec .encr (s0.setSchedule (derive publishedTables 1))) = true := rfl

theorem witness_HexoWritesDigits : 0 < ceil4 s0.cfg.maxd ∧ 15 < ceil4 s0.cfg.maxd := by decide

theorem witness_HexoOutsideOutputBuffer : ceil4 s0.cfg.maxd ≤ 16 ∧ ceil4 s0.cfg.maxd ≤ 65535 ∧ 65535 < 65536 ∧
    s0.busy = false ∧ s0.err = false := by decide

theorem witness_CascComputesCascade : Loaded loaded [0x61, 0x62, 0x63, 0x64, 0x65] [0x31] [] [] ∧ LengthsLegal loaded :=
  ⟨loaded_strings, by decide⟩

theorem witness_CascEqualsComponentCommands : loaded.dlen ≠ 0 ∧ s0.dlen = 0 := by decide

/-- No plaintext, no key, some key. -/
theorem witness_CascLeavesStateByCase : s0.dlen = 0 ∧
    (Loaded ab12 [0x61, 0x62, 0x31, 0x32] [] [] [] ∧ LengthsLegal ab12 ∧
      keySegments [] ++ keySegments [] ++ keySegments [] = []) ∧
    (Loaded loaded [0x61, 0x62, 0x63, 0x64, 0x65] [0x31] [] [] ∧ LengthsLegal loaded ∧
      (keySegments [0x31] ++ keySegments [] ++ keySegments []).length = 1) :=
  ⟨by decide, ⟨ab12_strings, by decide, by decide⟩, ⟨loaded_strings, by decide, by decide⟩⟩

theorem witness_CascDependsOnInputsOnly : ∃ s', s' = { ab12.setDmem (ab12.dmem ++ [(4, 0x99)]) with
      blk := 7
      rkv := true
      olen := 32
      omem := [(3, 0x30)] } ∧ s'.cfg = ab12.cfg ∧ s'.dlen = ab12.dlen ∧ (∀ k, klen s' k = klen ab12 k) ∧
    (∀ n, n < ab12.dlen.toNat → readCell s'.dmem n = readCell ab12.dmem n) ∧
    (∀ k n, n < (klen ab12 k).toNat → readCell (kmem s' k) n = readCell (kmem ab12 k) n) ∧
    ∃ t, exec .casc ab12 = .next t := by
  refine ⟨_, rfl, rfl, rfl, fun k => by cases k <;> rfl, by decide, fun k n _ => by cases k <;> rfl, next_of (by decide)⟩

theorem witness_CommandFrame : (∃ t, exec .casc ab12 = .next t) ∧ (∃ t, exec (.hexo 15) loaded = .next t) ∧
    (∃ t, exec .clr failed = .next t) ∧ (∃ t, exec .encr s0 = .next t) ∧ (∃ t, exec .ksched s0 = .next t) ∧
    (∃ t, exec (.packd 0) loaded = .next t) ∧ (∃ t, exec (.packk .key1 0) loaded = .next t) ∧
    ∃ t, exec .nop s0 = .next t :=
  ⟨next_of (by decide), next_of (by decide), next_of (by decide), next_of (by decide), next_of (by decide),
    next_of (by decide), next_of (by decide), next_of (by decide)⟩

theorem witness_PermuteReadsNamedBits : 1 ≤ 1 ∧ 1 ≤ 56 ∧ 56 ≤ 56 := by decide

theorem witness_TotalRotations : keyHalfC publishedTables 0x0101010101010101 = 0 ∧
    keyHalfD publishedTables 0x0101010101010101 = 0 ∧ keyHalfC publishedTables (BitVec.allOnes 64) = BitVec.allOnes 28 ∧
    keyHalfD publishedTables (BitVec.allOnes 64) = BitVec.allOnes 28 := by decide +kernel

theorem witness_DeriveIgnoresParityBits : publishedTables.pc1 = pc1Published := rfl

theorem witness_RoundFunctionByGroups : ∀ g ∈ [0x00#6, 0x3F#6, 0x20#6, 0x01#6, 0x1B#6], ∃ (row : Fin 4) (col : Fin 16),
    row.val = 2 * (g.getLsbD 5).toNat + (g.getLsbD 0).toNat ∧ col.val = (g.extractLsb' 1 4).toNat := by decide

theorem witness_FinalPermutationInvertsInitial : publishedTables.ip = ipPublished ∧ publishedTables.fp = fpPublished :=
  ⟨rfl, rfl⟩

theorem witness_EncryptIsBijective : publishedTables.ip = ipPublished ∧ publishedTables.fp = fpPublished := ⟨rfl, rfl⟩

theorem witness_CascadeSeesSegmentListOnly :
    keySegments [1, 2, 3, 4, 5] ++ keySegments [] ++ keySegments [6] =
      keySegments [1, 2, 3, 4] ++ keySegments [5] ++ keySegments [6] ∧
    ([1, 2, 3, 4] : List CharCell).length % 4 = 0 ∧ ([] : List CharCell).length % 4 = 0 := by decide +kernel

theorem witness_CascadeBlocksIndependent : 0 < ceil4 ([1, 2, 3, 4, 5] : List CharCell).length ∧
    1 < ceil4 ([1, 2, 3, 4, 5] : List CharCell).length := by decide

theorem witness_RegisterReads : ((0x0B ≤ 0x0F) ∧ (0x20 ≤ 0x20)) ∧ (inFlight .nop s0).busy = true ∧ s0.busy = false := by
  decide

/-- Each clause at the ends of its range: lengths 64 and 65, 16 and 17; registers 0x04, 0x06, 0x0A, 0x20. -/
theorem witness_RegisterWrites : (inFlight .nop s0).busy = true ∧ s0.busy = false ∧ s0.cfg.maxd < (65 : BitVec 64).toNat ∧
    (64 : BitVec 64).toNat ≤ s0.cfg.maxd ∧ s0.cfg.maxk < (17 : BitVec 64).toNat ∧
    (16 : BitVec 64).toNat ≤ s0.cfg.maxk ∧ 0x0A ≤ 0x20 := by decide

theorem witness_CommandIssue : failed.busy = false ∧ failed.err = true ∧ decode 0x40000000 ≠ .ok .clr ∧
    decode 0x01000000 = .ok .clr ∧ s0.busy = false ∧ s0.err = false ∧ decode 0x11000000 = .error .ksel ∧
    decode 0x30000000 = .ok .encr ∧ s0.rkv = false ∧ decode 0x50000010 = .ok (.hexo 16) ∧ ceil4 s0.cfg.maxd ≤ 16 ∧
    decode 0x5000000F = .ok (.hexo 15) ∧ Instr.hexo 15 ≠ .encr ∧
    (∀ idx, Instr.hexo 15 = .hexo idx → idx < ceil4 s0.cfg.maxd) :=
  ⟨by decide, by decide, by decide, by decide, by decide, by decide, by decide, by decide, by decide, by decide,
    by decide, by decide, by decide, by rintro idx ⟨⟩; decide⟩

/-- Index 63 is inside, 64 outside; an unwritten cell, a written one, a written cell of `OMEM` with `BUSY` 0 and 1. -/
theorem witness_BufferReads : spaceCap loaded.cfg .dmem ≤ 64 ∧ 63 < spaceCap loaded.cfg .dmem ∧
    readSpace loaded .dmem 63 = none ∧ readSpace loaded .dmem 4 = some 0x65 ∧
    (∃ s, s = inFlight .nop { loaded with omem := [(255, 0x30)] } ∧ 255 < spaceCap s.cfg .omem ∧
      readSpace s .omem 255 = some 0x30 ∧ s.busy = true) ∧ loaded.busy = false :=
  ⟨by decide, by decide, by decide, by decide, ⟨_, rfl, by decide, by decide, by decide⟩, by decide⟩

theorem witness_BufferWrites : (inFlight .nop s0).busy = true ∧ s0.busy = false ∧ spaceCap s0.cfg (.kmem .key3) ≤ 16 ∧
    15 < spaceCap s0.cfg (.kmem .key3) ∧ Space.kmem .key3 ≠ .omem := by decide

/-- One move for each of the eight codes, and one with no failing check. -/
theorem witness_HostErrorsInOrder :
    moveError s0 (.regWrite 0 0x02000000) = some .illop ∧ moveError s0 (.regWrite 0 1) = some .rsv ∧
    moveError s0 (.regWrite 0 0x11000000) = some .ksel ∧ moveError s0 (.regWrite 0 0x50000010) = some .range ∧
    moveError s0 (.regWrite 0 0x30000000) = some .nokey ∧ moveError s0 (.regWrite 6 17) = some .len ∧
    moveError (inFlight .nop s0) (.memWrite .omem 9 9) = some .busy ∧ moveError s0 (.memRead .dmem 64) = some .addr ∧
    moveError s0 (.regWrite 0 0) = none ∧ ∃ t, hostMove (.regWrite 0 0) s0 = .ok t :=
  ⟨by decide, by decide, by decide, by decide, by decide, by decide, by decide, by decide, by decide, _, rfl⟩

/-- A refused write and a read while a command is in flight: `CLR`, a `CASC` that completes under the invariant, and one
command that meets an unwritten cell. -/
theorem witness_CommandInFlightUndisturbed : (inFlight .clr s0).busy = true ∧ isRead (.regWrite 0x08 5) = false ∧
    completesNext (inFlight .clr s0) .clr ∧ (∃ t, step (inFlight .clr s0) = .next t) ∧
    (∃ t, hostMove (.regWrite 0x08 5) (inFlight .clr s0) = .ok t ∧ t.err = true) ∧
    (EngineInv (inFlight .casc loaded) ∧ completesNext (inFlight .casc loaded) .casc ∧
      (∃ t, hostMove (.regRead 0x08) (inFlight .casc loaded) = .ok t) ∧ ∃ u, step (inFlight .casc loaded) = .next u) ∧
    ∃ s, s = inFlight (.packd 1) { loaded with dlen := 6 } ∧ s.busy = true ∧ completesNext s (.packd 1) ∧
      (∃ t, hostMove (.regRead 0x20) s = .ok t) ∧ step s = .fault (.unwrittenCell .dmem 5) :=
  ⟨by decide, by decide, ⟨by decide, Or.inl (by decide), by decide⟩, next_of (by decide), ⟨_, rfl, rfl⟩,
    ⟨inFlight_inv, ⟨by decide, Or.inl (by decide), by decide⟩, ⟨_, rfl⟩, next_of (by decide)⟩,
    _, rfl, by decide, ⟨by decide, Or.inl (by decide), by decide⟩, ⟨_, rfl⟩, rfl⟩

/-- A step for each change of a flag: set and cleared, the last by `CLR` and by reset. -/
theorem witness_FlagsChangeOnlyAsListed :
    (∃ s, s = s0.setAgenda [.host (.regWrite 0x00 0)] ∧ s.busy = false ∧ (nextOf (step s)).busy = true) ∧
    ((inFlight .nop s0).busy = true ∧ (nextOf (step (inFlight .nop s0))).busy = false ∧
      (nextOf (step (inFlight .nop s0))).done = true) ∧
    (∃ s, s = ({ s0 with done := true } : State).setAgenda [.host (.regWrite 0x00 0)] ∧ s.done = true ∧
      (nextOf (step s)).done = false) ∧
    (∃ s, s = s0.setAgenda [.host (.regRead 0x0B)] ∧ s.err = false ∧ (nextOf (step s)).err = true) ∧
    (failed.err = true ∧ (nextOf (step (inFlight .clr failed))).err = false ∧
      (nextOf (step (failed.setAgenda [.reset]))).err = false) ∧
    (s0.rkv = false ∧ (nextOf (step (inFlight .ksched s0))).rkv = true) ∧
    (∃ s, s = inFlight .clr { s0 with rkv := true } ∧ s.rkv = true ∧ (nextOf (step s)).rkv = false) :=
  ⟨⟨_, rfl, by decide, by decide⟩, by decide, ⟨_, rfl, by decide, by decide⟩, ⟨_, rfl, by decide, by decide⟩, by decide,
    by decide, ⟨_, rfl, by decide, by decide⟩⟩

theorem witness_FirstErrorIsSticky : failed.err = true ∧ (∃ t, step failed = .next t) ∧
    (∃ t, step (inFlight .clr failed) = .next t) ∧
    ∃ s, s = failed.setAgenda [.host (.regWrite 0x00 0x01000000)] ∧ s.busy = false ∧ (nextOf (step s)).busy = true :=
  ⟨by decide, next_of (by decide), next_of (by decide), _, rfl, by decide, by decide⟩

theorem witness_RoundKeysWrittenOnlyByEngine : ∃ s t : State, step s = .next t ∧ t.rk ≠ s.rk :=
  ⟨inFlight .clr { s0 with rk := Vector.replicate 16 1 }, _, rfl, by decide⟩

theorem witness_IdleLatchUnobservable : SameButIdleLatch s0 { s0 with cmdl := 7 } ∧
    SameButIdleLatch (inFlight .casc s0) (inFlight .casc s0) ∧ (∃ t, step s0 = .next t) ∧
    ∃ s, s = s0.setAgenda [.host (.memRead .dmem 0)] ∧ SameButIdleLatch s { s with cmdl := 7 } ∧
      step s = .fault (.unwrittenCell .dmem 0) :=
  ⟨⟨rfl, fun h => absurd h (by decide)⟩, ⟨rfl, fun _ => rfl⟩, next_of (by decide), _, rfl,
    ⟨rfl, fun h => absurd h (by decide)⟩, rfl⟩

/-- One state whose command completes, and one that meets an unwritten cell. -/
theorem witness_AcceptedCommandCompletes : EngineInv (inFlight .casc loaded) ∧ (inFlight .casc loaded).busy = true ∧
    engineIsNext (inFlight .casc loaded) ∧ ∃ s, s = inFlight (.packd 1) { loaded with dlen := 6 } ∧ EngineInv s ∧
      s.busy = true ∧ engineIsNext s ∧ step s = .fault (.unwrittenCell .dmem 5) :=
  ⟨inFlight_inv, by decide, Or.inl (by decide), _, rfl,
    ⟨by decide, by decide, by decide, by decide, fun _ => ⟨.packd 1, by decide, by decide⟩⟩, by decide,
    Or.inl (by decide), rfl⟩

/-- Left over from earlier use: stale registers, stale digits, stale lengths. -/
theorem witness_CallReturnsCascade : ∃ s, s = { loaded with blk := 9, rkv := true, olen := 32, omem := [(3, 0x30)] } ∧
    s.cfg.wf ∧ s.busy = false ∧ s.err = false ∧ (List.replicate 64 0x41#16).length ≤ s.cfg.maxd ∧
    (List.replicate 16 0x41#16).length ≤ s.cfg.maxk ∧ ([] : List CharCell).length ≤ s.cfg.maxk :=
  ⟨_, rfl, by decide, by decide, by decide, by decide, by decide, by decide⟩

end Sys2Proof.Tests
end

/-! PROOFS. The statements of 00_scope.md. -/
namespace Sys2Proof.Machine

/-- Settles O32: a bit counted from the most significant end is `getMsbD` of its number less one, and `getMsbD_permute`
reads that bit of the output from the table. The second half is R7, which is how `dbit` is defined. -/
theorem permuteReadsNamedBits : Obligations.PermuteReadsNamedBits := by
  unfold Obligations.PermuteReadsNamedBits
  rintro m n T v j ⟨hj1, hjm⟩
  refine ⟨?_, rfl⟩
  calc dbit (permute T v) j
      _ = (permute T v).getMsbD (j - 1) := dbit_eq_getMsbD _ hj1 hjm
      _ = dbit v (T[j - 1]'(by omega)) := getMsbD_permute T v (j - 1) (by omega)

end Sys2Proof.Machine

/-! PROOFS. The statements of 10_state.md. -/
namespace Sys2Proof.Machine

/-- Reset is power-up of the same instance (70_reset_and_hazards.md R190), except for the buffers (R191) and for what
has no reset value: the latch and the model's own fields. -/
theorem resetEngine_eq_powerUp (s : State) : resetEngine s = { State.powerUp s.cfg with
    dmem := s.dmem
    k1mem := s.k1mem
    k2mem := s.k2mem
    k3mem := s.k3mem
    omem := if s.busy then [] else s.omem
    cmdl := s.cmdl
    agenda := s.agenda
    reply := s.reply
    draws := s.draws } := rfl

/-- The status word of an engine with all four flags 0 (10_state.md R24). -/
theorem statusWord_of_flags_clear {s : State} (hrkv : s.rkv = false) (herr : s.err = false) (hdone : s.done = false)
    (hbusy : s.busy = false) : statusWord s = 0 := by
  rw [statusWord, hrkv, herr, hdone, hbusy]
  rfl

theorem regValue_powerUp (c : Config) {r : RegName} (hr : r ≠ .cap) : regValue (State.powerUp c) r = 0 := by
  cases r with
  | cap => exact absurd rfl hr
  | status =>
    have h : statusWord (State.powerUp c) = 0 := statusWord_of_flags_clear rfl rfl rfl rfl
    simp [regValue, h]
  | klen k => cases k <;> rfl
  | rk i =>
    have h : (State.powerUp c).rk[i] = 0 := Vector.getElem_replicate i.isLt
    simp [regValue, h]
  | cmd | errcode | dlen | olen | blk | seg => rfl

/-- No register tells a reset from a power-up of the same instance. -/
theorem regValue_resetEngine (s : State) (r : RegName) :
    regValue (resetEngine s) r = regValue (State.powerUp s.cfg) r := by
  rw [resetEngine_eq_powerUp]
  cases r with
  | klen k => cases k <;> rfl
  | cmd | status | errcode | dlen | olen | blk | seg | cap | rk i => rfl

/-- The two capacities side by side are one number when each fits its half (10_state.md R29). -/
theorem capWord_eq_ofNat {c : Config} (hk : c.maxk < 2 ^ 32) (hd : c.maxd < 2 ^ 32) :
    capWord c = BitVec.ofNat 64 (c.maxk * 2 ^ 32 + c.maxd) := by
  apply BitVec.eq_of_toNat_eq
  rw [capWord, BitVec.toNat_append, BitVec.toNat_ofNat, BitVec.toNat_ofNat, BitVec.toNat_ofNat,
    Nat.mod_eq_of_lt hk, Nat.mod_eq_of_lt hd, ← Nat.shiftLeft_add_eq_or_of_lt hd, Nat.shiftLeft_eq]
  omega

theorem readSpace_powerUp (c : Config) (S : Space) (i : Nat) : readSpace (State.powerUp c) S i = none := by
  cases S with
  | kmem k => cases k <;> rfl
  | dmem | omem => rfl

theorem kmem_resetEngine (s : State) (k : KeySel) : kmem (resetEngine s) k = kmem s k :=
  kmem_congr _ rfl rfl rfl k

/-- Reset leaves the buffers the engine never writes (70_reset_and_hazards.md R191). -/
theorem readSpace_resetEngine_input (s : State) {S : Space} (hS : S ≠ .omem) (i : Nat) :
    readSpace (resetEngine s) S i = readSpace s S i := by
  cases S with
  | dmem => rfl
  | kmem k => rw [readSpace, kmem_resetEngine, readSpace]
  | omem => exact absurd rfl hS

/-- A command in flight at the reset costs `OMEM` its cells, and nothing else does (70_reset_and_hazards.md R191). -/
theorem readSpace_resetEngine_omem (s : State) (i : Nat) :
    readSpace (resetEngine s) .omem i = if s.busy then none else readSpace s .omem i := by
  rw [readSpace, resetEngine_eq_powerUp]
  cases s.busy <;> rfl

/-- Settles O9: reset is power-up but for the buffers, so that the registers are read once, at power-up; of the buffers
only `OMEM` depends on `BUSY`. -/
theorem resetValues : Obligations.ResetValues := by
  unfold Obligations.ResetValues
  refine ⟨fun c r hr => regValue_powerUp c hr, fun c hc => ?_, readSpace_powerUp,
    fun s r hr => (regValue_resetEngine s r).trans (regValue_powerUp s.cfg hr),
    fun s => regValue_resetEngine s .cap, fun s S i hS => readSpace_resetEngine_input s hS i,
    fun s i hb => by simp [readSpace_resetEngine_omem, hb], fun s i hb => by simp [readSpace_resetEngine_omem, hb]⟩
  obtain ⟨⟨-, hd⟩, ⟨-, hk⟩, -⟩ := hc
  exact capWord_eq_ofNat (c := c) (by omega) (by omega)

end Sys2Proof.Machine

/-! PROOFS. The statements of 20_memory.md: the host's moves, one rule for each check in the order of the checks (R53 to
R56), then what a completion can be (R57, R58), last the command in flight (R59). -/
namespace Sys2Proof.Machine

/-! ### The register map by its groups -/

theorem exists_regOf_rk {n : Nat} (hn : 0x10 ≤ n ∧ n ≤ 0x1F) : ∃ i, regOf n = some (.rk i) := by
  refine ⟨⟨n - 0x10, by omega⟩, ?_⟩
  rw [← regOf_rk, show 0x10 + (n - 0x10) = n by omega]

/-- `OLEN`, `BLK`, `SEG` and the round keys: what a command in flight may be writing (20_memory.md R53). -/
theorem exists_regOf_engineWritten {n : Nat} (hn : n = 0x07 ∨ n = 0x08 ∨ n = 0x09 ∨ (0x10 ≤ n ∧ n ≤ 0x1F)) :
    ∃ r, regOf n = some r ∧ isEngineWritten r = true := by
  obtain rfl | rfl | rfl | hn := hn
  · exact ⟨.olen, rfl, rfl⟩
  · exact ⟨.blk, rfl, rfl⟩
  · exact ⟨.seg, rfl, rfl⟩
  · obtain ⟨i, hi⟩ := exists_regOf_rk hn
    exact ⟨.rk i, hi, rfl⟩

/-! ### The host's register read (20_memory.md R53) -/

theorem hostRegRead_of_unmapped {s : State} {n : Nat} (hn : regOf n = none) :
    hostRegRead n s = (raiseError .addr s).setReply 0 := by
  rw [hostRegRead, hn]

theorem hostRegRead_of_drawn {s : State} {n : Nat} {r : RegName} (hn : regOf n = some r) (hb : s.busy = true)
    (hr : isEngineWritten r = true) : hostRegRead n s = (s.setReply (Config.freeRegister s.draws)).draw := by
  simp only [hostRegRead, hn, hb, hr, Bool.and_self, if_true]

theorem hostRegRead_of_settled {s : State} {n : Nat} {r : RegName} (hn : regOf n = some r)
    (hr : s.busy = false ∨ isEngineWritten r = false) : hostRegRead n s = s.setReply (regValue s r) := by
  have hfree : (s.busy && isEngineWritten r) = false := by
    rwa [Bool.and_eq_false_iff]
  simp only [hostRegRead, hn, hfree, Bool.false_eq_true, if_false]

/-- The four flags in bits 3 to 0 (10_state.md R24). -/
theorem regValue_status (s : State) : regValue s .status =
    BitVec.ofNat 64 (s.busy.toNat + 2 * s.done.toNat + 4 * s.err.toNat + 8 * s.rkv.toNat) := by
  rw [regValue, statusWord]
  generalize s.busy = b, s.done = d, s.err = e, s.rkv = r
  revert b d e r
  decide

/-- Settles O41: each number is unmapped, drawn or settled, and `hostRegRead` has one rule for each of the three. -/
theorem registerReads : Obligations.RegisterReads := by
  unfold Obligations.RegisterReads
  intro s
  refine ⟨fun n hn => ?_, fun hb n hn => ?_, hostRegRead_of_settled (r := .cmd) rfl (.inr rfl), ?_,
    hostRegRead_of_settled (r := .errcode) rfl (.inr rfl), hostRegRead_of_settled (r := .dlen) rfl (.inr rfl),
    hostRegRead_of_settled (r := .klen .key1) rfl (.inr rfl), hostRegRead_of_settled (r := .klen .key2) rfl (.inr rfl),
    hostRegRead_of_settled (r := .klen .key3) rfl (.inr rfl), hostRegRead_of_settled (r := .cap) rfl (.inr rfl),
    fun hb => ⟨hostRegRead_of_settled (r := .olen) rfl (.inl hb), hostRegRead_of_settled (r := .blk) rfl (.inl hb),
      hostRegRead_of_settled (r := .seg) rfl (.inl hb), fun i => hostRegRead_of_settled (regOf_rk i) (.inl hb)⟩⟩
  · rw [hostRegRead_of_unmapped (regOf_unmapped hn), raiseError_eq]
    rfl
  · obtain ⟨r, hr, hwritten⟩ := exists_regOf_engineWritten hn
    exact hostRegRead_of_drawn hr hb hwritten
  · rw [← regValue_status]
    exact hostRegRead_of_settled (r := .status) rfl (.inr rfl)

/-! ### The host's register write (20_memory.md R54) -/

theorem hostRegWrite_of_busy {s : State} {n : Nat} {v : BitVec 64} (hb : s.busy = true) :
    hostRegWrite n v s = raiseError .busy s := if_pos hb

theorem hostRegWrite_of_unmapped {s : State} {n : Nat} {v : BitVec 64} (hb : s.busy = false) (hn : regOf n = none) :
    hostRegWrite n v s = raiseError .addr s := by
  simp only [hostRegWrite, hb, Bool.false_eq_true, if_false, hn]

theorem hostRegWrite_of_mapped {s : State} {n : Nat} {v : BitVec 64} {r : RegName} (hb : s.busy = false)
    (hn : regOf n = some r) : hostRegWrite n v s = writeReg r v s := by
  simp only [hostRegWrite, hb, Bool.false_eq_true, if_false, hn]

/-- Step 2 of R54: `STATUS`, `ERRCODE`, `OLEN`, `CAP` and the round keys are read-only, the other numbers from 0x0A on
are unmapped. -/
theorem hostRegWrite_of_refused {s : State} {n : Nat} {v : BitVec 64} (hb : s.busy = false)
    (hn : n = 0x01 ∨ n = 0x02 ∨ n = 0x07 ∨ 0x0A ≤ n) : hostRegWrite n v s = raiseError .addr s := by
  obtain rfl | rfl | rfl | hn := hn
  · exact hostRegWrite_of_mapped (r := .status) hb rfl
  · exact hostRegWrite_of_mapped (r := .errcode) hb rfl
  · exact hostRegWrite_of_mapped (r := .olen) hb rfl
  · obtain hle | ⟨i, -, hi⟩ | hnone := regOf_cases n
    · obtain rfl : n = 0x0A := by omega
      exact hostRegWrite_of_mapped (r := .cap) hb rfl
    · exact hostRegWrite_of_mapped (r := .rk i) hb hi
    · exact hostRegWrite_of_unmapped hb hnone

theorem exists_regOf_klen {n : Nat} (hlow : 0x04 ≤ n) (hhigh : n ≤ 0x06) : ∃ k, regOf n = some (.klen k) := by
  obtain rfl | rfl | rfl : n = 0x04 ∨ n = 0x05 ∨ n = 0x06 := by omega
  · exact ⟨.key1, rfl⟩
  · exact ⟨.key2, rfl⟩
  · exact ⟨.key3, rfl⟩

/-- Step 3 of R54 refuses a key length above the capacity; one within it is taken. -/
theorem hostRegWrite_klen {s : State} {n : Nat} {v : BitVec 64} {k : KeySel} (hb : s.busy = false)
    (hn : regOf n = some (.klen k)) : hostRegWrite n v s =
      if v.toNat ≤ s.cfg.maxk then s.setKlen k (v.setWidth 32) else raiseError .len s := by
  rw [hostRegWrite_of_mapped hb hn, writeReg]

theorem hostRegWrite_dlen {s : State} {v : BitVec 64} (hb : s.busy = false) : hostRegWrite 0x03 v s =
    if v.toNat ≤ s.cfg.maxd then s.setDlen (v.setWidth 32) else raiseError .len s := by
  rw [hostRegWrite_of_mapped (r := .dlen) hb rfl, writeReg]

/-- Settles O42: the checks one after the other; which register stands behind a number is `regOf`'s to say. -/
theorem registerWrites : Obligations.RegisterWrites := by
  unfold Obligations.RegisterWrites
  refine fun s v => ⟨fun hb n => ?_, fun hb => ⟨fun n hn => ?_, fun hv => ?_, fun hv n hlow hhigh => ?_,
    hostRegWrite_of_mapped (r := .cmd) hb rfl, fun hv => ?_, fun hv => ?_,
    hostRegWrite_of_mapped (r := .blk) hb rfl, hostRegWrite_of_mapped (r := .seg) hb rfl⟩⟩
  · rw [hostRegWrite_of_busy hb, raiseError_eq]
  · rw [hostRegWrite_of_refused hb hn, raiseError_eq]
  · rw [hostRegWrite_dlen hb, if_neg (by omega), raiseError_eq]
  · obtain ⟨k, hk⟩ := exists_regOf_klen hlow hhigh
    rw [hostRegWrite_klen hb hk, if_neg (by omega), raiseError_eq]
  · rw [hostRegWrite_dlen hb, if_pos hv]
    rfl
  · rw [hostRegWrite_klen (k := .key1) hb rfl, hostRegWrite_klen (k := .key2) hb rfl,
      hostRegWrite_klen (k := .key3) hb rfl, if_pos hv, if_pos hv, if_pos hv]
    exact ⟨rfl, rfl, rfl⟩

/-! ### The host's buffer read (20_memory.md R55) -/

theorem hostMemRead_of_outside {s : State} {S : Space} {i : Nat} (hi : spaceCap s.cfg S ≤ i) :
    hostMemRead S i s = .ok ((raiseError .addr s).setReply 0) := by
  rw [hostMemRead, if_neg (by omega)]

theorem hostMemRead_of_unwritten {s : State} {S : Space} {i : Nat} (hi : i < spaceCap s.cfg S)
    (hread : readSpace s S i = none) : hostMemRead S i s = .error (.unwrittenCell S i) := by
  rw [hostMemRead, if_pos hi, hread]

/-- A written cell inside the buffer answers with a free draw only if it is one a command in flight may be writing. -/
theorem hostMemRead_of_written {s : State} {S : Space} {i : Nat} {v : BitVec 64} (hi : i < spaceCap s.cfg S)
    (hread : readSpace s S i = some v) : hostMemRead S i s = .ok (
      if S = .omem ∧ s.busy = true then (s.setReply ((Config.freeCell s.draws).setWidth 64)).draw
      else s.setReply v) := by
  rw [hostMemRead, if_pos hi, hread]
  simp only [Bool.and_eq_true, beq_iff_eq, and_comm (a := s.busy = true), apply_ite Except.ok]

/-- Settles O44: the three rules above, in the order of the cases. -/
theorem bufferReads : Obligations.BufferReads := by
  unfold Obligations.BufferReads
  refine fun s S i => ⟨fun hi => ?_, hostMemRead_of_unwritten, fun hi v hread => ⟨fun hS hb => ?_, fun hsettled => ?_⟩⟩
  · rw [hostMemRead_of_outside hi, raiseError_eq]
    rfl
  · rw [hostMemRead_of_written hi hread, if_pos ⟨hS, hb⟩]
    rfl
  · rw [hostMemRead_of_written hi hread, if_neg (by simp; tauto)]
    rfl

/-! ### The host's buffer write (20_memory.md R56) -/

theorem hostMemWrite_of_busy {s : State} {S : Space} {i : Nat} {v : CharCell} (hb : s.busy = true) :
    hostMemWrite S i v s = raiseError .busy s := if_pos hb

theorem hostMemWrite_of_refused {s : State} {S : Space} {i : Nat} {v : CharCell} (hb : s.busy = false)
    (hS : S = .omem ∨ spaceCap s.cfg S ≤ i) : hostMemWrite S i v s = raiseError .addr s := by
  cases S with
  | omem => simp [hostMemWrite, hb]
  | dmem | kmem k =>
    have hi := hS.resolve_left (by simp)
    simp only [spaceCap] at hi
    simp only [hostMemWrite, hb, Bool.false_eq_true, if_false, if_neg (Nat.not_lt.mpr hi)]

theorem readSpace_setDmem_writeCell (s : State) (i : Nat) (v : CharCell) (S : Space) (j : Nat) :
    readSpace (s.setDmem (writeCell s.dmem i v)) S j =
      if S = .dmem ∧ j = i then some (v.setWidth 64) else readSpace s S j := by
  cases S with
  | dmem =>
    simp only [readSpace, State.setDmem_dmem, readCell_writeCell, true_and]
    split <;> rfl
  | kmem k => cases k <;> rfl
  | omem => rfl

theorem readSpace_setKmem_writeCell (s : State) (k : KeySel) (i : Nat) (v : CharCell) (S : Space) (j : Nat) :
    readSpace (s.setKmem k (writeCell (kmem s k) i v)) S j =
      if S = .kmem k ∧ j = i then some (v.setWidth 64) else readSpace s S j := by
  cases S with
  | dmem | omem => simp [readSpace]
  | kmem k' =>
    by_cases hk : k' = k
    · subst hk
      simp only [readSpace, kmem_setKmem, readCell_writeCell, true_and]
      split <;> rfl
    · simp [readSpace, kmem_setKmem_other s _ hk, hk]

/-- A write that passes its checks changes one cell of one buffer. -/
theorem readSpace_hostMemWrite {s : State} {S : Space} {i : Nat} {v : CharCell} (hb : s.busy = false)
    (hS : S ≠ .omem) (hi : i < spaceCap s.cfg S) (S' : Space) (j : Nat) : readSpace (hostMemWrite S i v s) S' j =
      if S' = S ∧ j = i then some (v.setWidth 64) else readSpace s S' j := by
  cases S with
  | dmem => rw [hostMemWrite_dmem v hb hi, readSpace_setDmem_writeCell]
  | kmem k => rw [hostMemWrite_kmem k v hb hi, readSpace_setKmem_writeCell]
  | omem => exact absurd rfl hS

/-- A write that passes its checks leaves all but the four character buffers. -/
theorem hostMemWrite_frame {s : State} {S : Space} {i : Nat} {v : CharCell} (hb : s.busy = false) (hS : S ≠ .omem)
    (hi : i < spaceCap s.cfg S) : hostMemWrite S i v s = { s with
      dmem := (hostMemWrite S i v s).dmem
      k1mem := (hostMemWrite S i v s).k1mem
      k2mem := (hostMemWrite S i v s).k2mem
      k3mem := (hostMemWrite S i v s).k3mem } := by
  cases S with
  | dmem =>
    rw [hostMemWrite_dmem v hb hi]
    rfl
  | kmem k =>
    rw [hostMemWrite_kmem k v hb hi]
    cases k <;> rfl
  | omem => exact absurd rfl hS

/-- Settles O45: the checks in order, then one cell by `readSpace_hostMemWrite`. -/
theorem bufferWrites : Obligations.BufferWrites := by
  unfold Obligations.BufferWrites
  refine fun s S i v => ⟨fun hb => ?_, fun hb hS => ?_, fun hb hS hi => ⟨?_, fun S' j hother => ?_,
    hostMemWrite_frame hb hS hi⟩⟩
  · rw [hostMemWrite_of_busy hb, raiseError_eq]
  · rw [hostMemWrite_of_refused hb hS, raiseError_eq]
  · rw [readSpace_hostMemWrite hb hS hi, if_pos ⟨rfl, rfl⟩]
  · rw [readSpace_hostMemWrite hb hS hi, if_neg (by tauto)]

/-! ### What a completion can be -/

/-- A command but `CLR` leaves the fields of the shell as they were, but for the two completion flags: `exec` under the
state's own frame is `exec`, and `exec_reframe_next` says what that leaves. -/
theorem exec_keeps_shell {i : Instr} {s t : State} (hi : i ≠ .clr) (h : exec i s = .next t) :
    t = finish (reframe s t) := by
  have hframed : exec i s = .next (finish (reframe s t)) := exec_reframe_next s hi h
  rw [h] at hframed
  exact Host.Outcome.next.inj hframed

/-- Every completion clears `BUSY` and sets `DONE` (20_memory.md R58). -/
theorem exec_next_finished {i : Instr} {s t : State} (h : exec i s = .next t) : t.busy = false ∧ t.done = true := by
  by_cases hi : i = .clr
  · subst hi
    rw [exec_clr_next.mp h]
    exact ⟨rfl, rfl⟩
  · rw [exec_keeps_shell hi h]
    exact ⟨rfl, rfl⟩

/-- `e` is the fault of an unwritten cell of one of the buffers the engine reads, `OMEM` not among them (10_state.md
R39). -/
def IsUnwrittenInput (s : State) (e : Fault) : Prop :=
  ∃ S c, e = .unwrittenCell S c ∧ S ≠ .omem ∧ readSpace s S c = none

theorem readSpace_of_onlyCascade {s t : State} (h : OnlyCascade s t) {S : Space} (hS : S ≠ .omem) (c : Nat) :
    readSpace t S c = readSpace s S c := by
  cases S with
  | dmem => rw [readSpace, readSpace, h.dmem]
  | kmem k => rw [readSpace, readSpace, h.kmem]
  | omem => exact absurd rfl hS

/-- A running cascade writes none of the buffers it reads, so what it finds unwritten was unwritten at its start. -/
theorem IsUnwrittenInput.of_onlyCascade {s t : State} {e : Fault} (h : OnlyCascade s t) (he : IsUnwrittenInput t e) :
    IsUnwrittenInput s e := by
  obtain ⟨S, c, rfl, hS, hc⟩ := he
  exact ⟨S, c, rfl, hS, (readSpace_of_onlyCascade h hS c).symm.trans hc⟩

/-- With a legal length the cells of a chunk are inside their buffer, so a chunk can only fault at an unwritten one. -/
theorem fetchChunk_error_unwritten {S : Space} {m : Cells 16} {cap len idx : Nat} {e : Fault} (hlen : len ≤ cap)
    (h : fetchChunk S m cap len idx = .error e) : ∃ c, e = .unwrittenCell S c ∧ readCell m c = none := by
  obtain ⟨c, hlow, hhigh, ⟨-, hread, rfl⟩ | ⟨hout, -⟩⟩ := fetchCells_error h
  · exact ⟨c, rfl, hread⟩
  · simp only [chunkSize] at hhigh
    omega

theorem plainChunk_error_unwritten {s : State} {idx : Nat} {e : Fault} (hlen : s.dlen.toNat ≤ s.cfg.maxd)
    (h : plainChunk s idx = .error e) : IsUnwrittenInput s e := by
  obtain ⟨c, rfl, hread⟩ := fetchChunk_error_unwritten hlen h
  exact ⟨.dmem, c, rfl, by simp, by rw [readSpace, hread]; rfl⟩

theorem keyChunk_error_unwritten {s : State} {k : KeySel} {idx : Nat} {e : Fault}
    (hlen : (klen s k).toNat ≤ s.cfg.maxk) (h : keyChunk s k idx = .error e) : IsUnwrittenInput s e := by
  obtain ⟨c, rfl, hread⟩ := fetchChunk_error_unwritten hlen h
  exact ⟨.kmem k, c, rfl, by simp, by rw [readSpace, hread]; rfl⟩

theorem klen_le_of_lengthsLegal {s : State} (h : LengthsLegal s) (k : KeySel) : (klen s k).toNat ≤ s.cfg.maxk := by
  obtain ⟨-, h1, h2, h3, -⟩ := h
  cases k <;> assumption

/-- The segments of one key fault only at an unwritten cell of its buffer. -/
theorem cascKey_error_unwritten {s : State} {k : KeySel} {e : Fault} (hlen : (klen s k).toNat ≤ s.cfg.maxk)
    (h : cascKey s k = .error e) : IsUnwrittenInput s e := by
  refine foldlM_faults (P := OnlyCascade s) (fun j _ u v hu hv => hu.trans (cascSegment_only hv))
    (fun j _ u hu he => ?_) (.refl s) h
  refine .of_onlyCascade hu (keyChunk_error_unwritten ?_ (cascSegment_error.mp he))
  rwa [hu.klen, hu.cfg]

/-- One plaintext block faults in its pack, in one of the keys, or in storing the digits. -/
theorem cascBlock_error {b : Nat} {s : State} {e : Fault} :
    cascBlock s b = .error e ↔ packPlain b s = .error e ∨ ∃ u, packPlain b s = .ok u ∧
      ([KeySel.key1, KeySel.key2, KeySel.key3].foldlM cascKey u = .error e ∨
        ∃ v, [KeySel.key1, KeySel.key2, KeySel.key3].foldlM cascKey u = .ok v ∧ writeHex b v = .error e) := by
  simp only [cascBlock, bind_error]

/-- A block inside the plaintext has its output block inside `OMEM`, so it faults only at an unwritten cell. -/
theorem cascBlock_error_unwritten {s : State} {b : Nat} {e : Fault} (hlen : LengthsLegal s)
    (hb : b < ceil4 s.dlen.toNat) (h : cascBlock s b = .error e) : IsUnwrittenInput s e := by
  have hd : s.dlen.toNat ≤ s.cfg.maxd := hlen.1
  rcases cascBlock_error.mp h with hpack | ⟨u, hpack, hkeys | ⟨v, hkeys, hhex⟩⟩
  · exact plainChunk_error_unwritten hd (packPlain_error.mp hpack)
  · refine foldlM_faults (P := OnlyCascade s) (fun k _ x y hx hy => hx.trans (cascKey_only hy))
      (fun k _ x hx he => ?_) (packPlain_only hpack) hkeys
    refine .of_onlyCascade hx (cascKey_error_unwritten ?_ he)
    rw [hx.klen, hx.cfg]
    exact klen_le_of_lengthsLegal hlen k
  · obtain ⟨hout, -⟩ := storeBlock_error.mp hhex
    rw [((packPlain_only hpack).trans (cascKeys_only hkeys)).cfg] at hout
    simp only [ceil4] at hb hout
    omega

/-- A command that met its precondition, with legal lengths, can only fault at an unwritten cell (20_memory.md R57). -/
theorem exec_fault_unwritten {i : Instr} {s : State} {e : Fault} (hlen : LengthsLegal s) (hi : issueError s i = none)
    (h : exec i s = .fault e) : IsUnwrittenInput s e := by
  cases i with
  | nop => cases h
  | clr => cases h
  | packd n => exact plainChunk_error_unwritten hlen.1 (exec_packd_fault.mp h)
  | packk k n => exact keyChunk_error_unwritten (klen_le_of_lengthsLegal hlen k) (exec_packk_fault.mp h)
  | ksched => cases h
  | encr => cases h
  | casc =>
    refine foldlM_faults (P := OnlyCascade s) (fun b _ u v hu hv => hu.trans (cascBlock_only hv))
      (fun b hb u hu he => ?_) (.refl s) (exec_casc_fault.mp h)
    refine .of_onlyCascade hu (cascBlock_error_unwritten ?_ ?_ he)
    · rw [hu.same]
      exact hlen
    · rw [hu.dlen]
      exact List.mem_range.mp hb
  | hexo n =>
    obtain ⟨hout, -⟩ := exec_hexo_fault.mp h
    simp only [issueError, ite_eq_left_iff, reduceCtorEq, imp_false, not_not] at hi
    omega

/-- "Completion cannot fail" (20_memory.md R57), but for the model fault of an unwritten cell. -/
theorem exec_finishes_or_unwritten {i : Instr} {s : State} (hlen : LengthsLegal s) (hi : issueError s i = none) :
    (∃ t, exec i s = .next t ∧ t.busy = false ∧ t.done = true) ∨
      ∃ S c, exec i s = .fault (.unwrittenCell S c) ∧ S ≠ .omem ∧ readSpace s S c = none := by
  cases h : exec i s with
  | next t => exact .inl ⟨t, rfl, exec_next_finished h⟩
  | fault e =>
    obtain ⟨S, c, rfl, hS, hread⟩ := exec_fault_unwritten hlen hi h
    exact .inr ⟨S, c, rfl, hS, hread⟩
  | refused c => exact absurd h (exec_never_refused i s c)

/-! ### The command in flight -/

/-- `t` differs from `s` at most in what a host move reaches while `BUSY = 1`: the pending error, the answer to the host
and the count of draws (20_memory.md R59). -/
structure OnlyHostFields (s t : State) : Prop where
  same : t = { s with err := t.err, errcode := t.errcode, reply := t.reply, draws := t.draws }

/-- Of the effects of `MoveEffect` those beyond these fields need `BUSY = 0`. -/
theorem hostMove_only_of_busy {m : HostMove} {s t : State} (hb : s.busy = true) (h : hostMove m s = .ok t) :
    OnlyHostFields s t := by
  constructor
  cases hostMove_effect h with
  | raised c => rw [raiseError_eq]
  | answeredError => rw [raiseError_eq]; rfl
  | dropped | answered | drew => rfl
  | accepted _ _ h0 | wroteDlen _ h0 | wroteKlen _ _ h0 | wroteBlk _ h0 | wroteSeg _ h0 | wroteDmem _ _ h0
  | wroteKmem _ _ _ h0 => simp [hb] at h0

/-- While `BUSY = 1` every host write raises `E_BUSY` and does nothing else (20_memory.md R54, R56). -/
theorem hostMove_write_of_busy {m : HostMove} {s : State} (hb : s.busy = true) (hm : isRead m = false) :
    hostMove m s = .ok (raiseError .busy s) := by
  cases m with
  | regRead n => cases hm
  | regWrite n v => rw [hostMove, hostRegWrite_of_busy hb]
  | memRead S i => cases hm
  | memWrite S i v => rw [hostMove, hostMemWrite_of_busy hb]

theorem OnlyHostFields.inFlight {s t : State} {i : Instr} (h : OnlyHostFields s t) (hs : completesNext s i) :
    completesNext t i := by
  rw [h.same]
  exact hs

theorem OnlyHostFields.lengthsLegal {s t : State} (h : OnlyHostFields s t) (hs : LengthsLegal s) : LengthsLegal t := by
  rw [h.same]
  exact hs

/-- What the engine's turn completes on is `s` in the frame of `t`, for a command looks at no field of the shell. -/
theorem OnlyHostFields.setAgenda_tail {s t : State} (h : OnlyHostFields s t) :
    t.setAgenda t.agenda.tail = reframe (t.setAgenda t.agenda.tail) (s.setAgenda s.agenda.tail) := by
  rw [h.same]
  rfl

/-- The command completes as it would have without the move; `CLR` clears the error raised meanwhile. -/
theorem OnlyHostFields.step_next {s t u : State} {i : Instr} (h : OnlyHostFields s t) (hs : completesNext s i)
    (hu : step s = .next u) : step t = .next { u with
      err := if i = .clr then false else t.err
      errcode := if i = .clr then .none else t.errcode
      reply := t.reply
      draws := t.draws } := by
  rw [step_of_completesNext hs] at hu
  rw [step_of_completesNext (h.inFlight hs)]
  by_cases hi : i = .clr
  · subst hi
    rw [exec_clr_next.mp hu, exec_clr, h.same]
    rfl
  · rw [h.setAgenda_tail, exec_reframe_next _ hi hu, if_neg hi, if_neg hi, exec_keeps_shell hi hu, h.same]
    rfl

/-- The command meets the fault it would have met without the move. -/
theorem OnlyHostFields.step_fault {s t : State} {i : Instr} {e : Fault} (h : OnlyHostFields s t)
    (hs : completesNext s i) (he : step s = .fault e) : step t = .fault e := by
  rw [step_of_completesNext hs] at he
  rw [step_of_completesNext (h.inFlight hs), h.setAgenda_tail]
  exact exec_reframe_fault _ he

/-- `CLR` completes in every state and leaves no error pending (45_control.md R161). -/
theorem step_clr {s : State} (h : completesNext s .clr) :
    step s = .next (finish (clearRegisters (s.setAgenda s.agenda.tail))) := by
  rw [step_of_completesNext h, exec_clr]

/-- The latched command of a state under the invariant met its precondition. -/
theorem EngineInv.issueError_none {s : State} {i : Instr} (hinv : EngineInv s) (h : completesNext s i) :
    issueError s i = none := by
  obtain ⟨hb, -, hd⟩ := h
  obtain ⟨j, hj, hpre⟩ := hinv.latch hb
  rw [hd] at hj
  cases hj
  exact hpre

theorem readSpace_setAgenda (s : State) (ts : List Turn) (S : Space) (i : Nat) :
    readSpace (s.setAgenda ts) S i = readSpace s S i := by
  cases S with
  | kmem k => rw [readSpace, kmem_congr (t := s.setAgenda ts) s rfl rfl rfl k, readSpace]
  | dmem | omem => rfl

/-- The step that completes a command ends it or meets an unwritten cell. -/
theorem step_finishes_or_unwritten {s : State} {i : Instr} (hlen : LengthsLegal s) (hi : issueError s i = none)
    (h : completesNext s i) : (∃ t, step s = .next t ∧ t.busy = false ∧ t.done = true) ∨
      ∃ S c, step s = .fault (.unwrittenCell S c) ∧ S ≠ .omem ∧ readSpace s S c = none := by
  rw [step_of_completesNext h]
  have hpre : issueError (s.setAgenda s.agenda.tail) i = none := (issueError_congr rfl rfl i).trans hi
  obtain hnext | ⟨S, c, hfault, hS, hread⟩ := exec_finishes_or_unwritten (s := s.setAgenda s.agenda.tail) hlen hpre
  · exact .inl hnext
  · exact .inr ⟨S, c, hfault, hS, (readSpace_setAgenda s _ S c).symm.trans hread⟩

/-- Settles O47: while `BUSY = 1` a move reaches only the fields of `OnlyHostFields`, which no completion looks at, so
the completion is the same in their frame; under the invariant `exec_finishes_or_unwritten` bounds what it can be. -/
theorem commandInFlightUndisturbed : Obligations.CommandInFlightUndisturbed := by
  unfold Obligations.CommandInFlightUndisturbed
  intro s m hb
  refine ⟨fun hm => ?_, fun t ht => ?_, fun t hc ht => ?_, fun t i ht hc => ?_⟩
  · rw [hostMove_write_of_busy hb hm, raiseError_eq]
  · have honly := hostMove_only_of_busy hb ht
    refine ⟨?_, ?_, honly.same⟩
    · rw [honly.same]
      exact hb
    · rw [honly.same]
  · rw [step_clr hc] at ht
    cases ht
    exact ⟨rfl, rfl⟩
  · have honly := hostMove_only_of_busy hb ht
    have hct := honly.inFlight hc
    refine ⟨fun u hu => ?_, fun f hf => honly.step_fault hc hf, fun hi => ?_, fun hinv => ?_⟩
    · have hexec := hu
      rw [step_of_completesNext hc] at hexec
      obtain ⟨hbusy, hdone⟩ := exec_next_finished hexec
      exact ⟨hbusy, hdone, honly.step_next hc hu⟩
    · subst hi
      exact ⟨_, step_clr hct, rfl, rfl, rfl, rfl⟩
    · have hpre : issueError t i = none := by
        rw [honly.same]
        exact (issueError_congr rfl rfl i).trans (hinv.issueError_none hc)
      exact step_finishes_or_unwritten (honly.lengthsLegal hinv.lengths) hpre hct

end Sys2Proof.Machine

/-! PROOFS. The statements of 30_encoding.md: a word by its fields (R71), the outcome of each format's checks (R75), the
command of a value as the one whose word it is, and the rows of the opcode map (R74). -/
namespace Sys2Proof.Machine

/-! ### A word by its fields (30_encoding.md R71) -/

theorem bitVec_append_inj {m n : Nat} {a c : BitVec m} {b d : BitVec n} : a ++ b = c ++ d ↔ a = c ∧ b = d := by
  refine ⟨fun h => ⟨?_, ?_⟩, fun ⟨ha, hb⟩ => by rw [ha, hb]⟩
  · rw [← BitVec.extractLsb'_append_eq_left (a := a) (b := b), h, BitVec.extractLsb'_append_eq_left]
  · rw [← BitVec.extractLsb'_append_eq_right (a := a) (b := b), h, BitVec.extractLsb'_append_eq_right]

theorem word_eq_fieldsN (w : CmdWord) : w = w.extractLsb' 24 8 ++ w.extractLsb' 0 24 :=
  (BitVec.extractLsb'_append_extractLsb' (w := 8) (len := 24) (x := w)).symm

theorem word_eq_fieldsI (w : CmdWord) : w = w.extractLsb' 24 8 ++ w.extractLsb' 16 8 ++ w.extractLsb' 0 16 := by
  rw [BitVec.extractLsb'_append_extractLsb'_eq_extractLsb' (start₂ := 24) (start₁ := 16) rfl]
  exact (BitVec.extractLsb'_append_extractLsb' (w := 16) (len := 16) (x := w)).symm

theorem word_eq_fieldsKI (w : CmdWord) :
    w = w.extractLsb' 24 8 ++ w.extractLsb' 22 2 ++ w.extractLsb' 16 6 ++ w.extractLsb' 0 16 := by
  rw [BitVec.extractLsb'_append_extractLsb'_eq_extractLsb' (start₂ := 24) (start₁ := 22) rfl,
    BitVec.extractLsb'_append_extractLsb'_eq_extractLsb' (start₂ := 22) (start₁ := 16) rfl]
  exact (BitVec.extractLsb'_append_extractLsb' (w := 16) (len := 16) (x := w)).symm

/-- An index in range is the field that holds it (30_encoding.md R72). -/
theorem eq_ofNat_index_iff {x : BitVec 16} {idx : Nat} :
    idx < 65536 ∧ x = BitVec.ofNat 16 idx ↔ x.toNat = idx := by
  constructor
  · rintro ⟨hidx, rfl⟩
    exact Nat.mod_eq_of_lt hidx
  · rintro rfl
    exact ⟨x.isLt, by rw [BitVec.ofNat_toNat, BitVec.setWidth_eq]⟩

theorem eq_wordN_iff {w : CmdWord} {op : BitVec 8} :
    w = wordN op ↔ w.extractLsb' 24 8 = op ∧ w.extractLsb' 0 24 = 0#24 := by
  conv_lhs => rw [word_eq_fieldsN w]
  exact bitVec_append_inj

theorem eq_wordI_iff {w : CmdWord} {op : BitVec 8} {idx : Nat} : idx < 65536 ∧ w = wordI op idx ↔
    w.extractLsb' 24 8 = op ∧ w.extractLsb' 16 8 = 0#8 ∧ (w.extractLsb' 0 16).toNat = idx := by
  conv_lhs => rw [word_eq_fieldsI w]
  rw [wordI, bitVec_append_inj, bitVec_append_inj, ← eq_ofNat_index_iff]
  tauto

theorem eq_wordKI_iff {w : CmdWord} {op : BitVec 8} {k : KeySel} {idx : Nat} : idx < 65536 ∧ w = wordKI op k idx ↔
    w.extractLsb' 24 8 = op ∧ w.extractLsb' 22 2 = keySelBits k ∧ w.extractLsb' 16 6 = 0#6 ∧
      (w.extractLsb' 0 16).toNat = idx := by
  conv_lhs => rw [word_eq_fieldsKI w]
  rw [wordKI, bitVec_append_inj, bitVec_append_inj, bitVec_append_inj, ← eq_ofNat_index_iff]
  tauto

/-- A value is a word with nothing above it (30_encoding.md R71). -/
theorem eq_cmdValue_iff {v : BitVec 64} {w : CmdWord} :
    v = cmdValue w ↔ v.extractLsb' 32 32 = 0#32 ∧ v.setWidth 32 = w := by
  constructor
  · rintro rfl
    exact ⟨by ext i; simp [cmdValue], by simp [cmdValue]⟩
  · rintro ⟨hhigh, rfl⟩
    exact (cmdValue_low hhigh).symm

/-! ### The key slot field (30_encoding.md R73) -/

theorem keySelOf_eq_some_iff {b : BitVec 2} {k : KeySel} : keySelOf b = some k ↔ b = keySelBits k := by
  revert b
  cases k <;> decide

theorem keySelOf_eq_none_iff {b : BitVec 2} : keySelOf b = none ↔ b = 0#2 := by
  revert b
  decide

/-! ### The checks of each format (30_encoding.md R75 steps 2 to 4) -/

theorem decodeN_eq_ok_iff {i j : Instr} {v : BitVec 64} :
    decodeN i v = .ok j ↔ i = j ∧ v.extractLsb' 32 32 = 0#32 ∧ v.extractLsb' 0 24 = 0#24 := by
  unfold decodeN
  split <;> simp [*]

theorem decodeN_eq_error_iff {i : Instr} {v : BitVec 64} {c : ErrCode} :
    decodeN i v = .error c ↔ c = .rsv ∧ (v.extractLsb' 32 32 ≠ 0#32 ∨ v.extractLsb' 0 24 ≠ 0#24) := by
  rw [decodeN, ite_eq_iff, ← not_and_or]
  simp [and_comm, eq_comm]

theorem decodeI_eq_ok_iff {mk : Nat → Instr} {j : Instr} {v : BitVec 64} : decodeI mk v = .ok j ↔
    mk (v.extractLsb' 0 16).toNat = j ∧ v.extractLsb' 32 32 = 0#32 ∧ v.extractLsb' 16 8 = 0#8 := by
  unfold decodeI
  split <;> simp [*]

theorem decodeI_eq_error_iff {mk : Nat → Instr} {v : BitVec 64} {c : ErrCode} :
    decodeI mk v = .error c ↔ c = .rsv ∧ (v.extractLsb' 32 32 ≠ 0#32 ∨ v.extractLsb' 16 8 ≠ 0#8) := by
  rw [decodeI, ite_eq_iff, ← not_and_or]
  simp [and_comm, eq_comm]

theorem decodeKI_eq_ok_iff {mk : KeySel → Nat → Instr} {j : Instr} {v : BitVec 64} : decodeKI mk v = .ok j ↔
    (v.extractLsb' 32 32 = 0#32 ∧ v.extractLsb' 16 6 = 0#6) ∧
      ∃ k, v.extractLsb' 22 2 = keySelBits k ∧ mk k (v.extractLsb' 0 16).toNat = j := by
  simp only [← keySelOf_eq_some_iff]
  unfold decodeKI
  split
  · cases keySelOf (v.extractLsb' 22 2) <;> simp [*]
  · simp [*]

theorem decodeKI_eq_error_iff {mk : KeySel → Nat → Instr} {v : BitVec 64} {c : ErrCode} : decodeKI mk v = .error c ↔
    c = .rsv ∧ (v.extractLsb' 32 32 ≠ 0#32 ∨ v.extractLsb' 16 6 ≠ 0#6) ∨
      c = .ksel ∧ (v.extractLsb' 32 32 = 0#32 ∧ v.extractLsb' 16 6 = 0#6) ∧ v.extractLsb' 22 2 = 0#2 := by
  rw [← not_and_or, ← keySelOf_eq_none_iff]
  unfold decodeKI
  split
  · cases keySelOf (v.extractLsb' 22 2) <;> simp [*, eq_comm (a := c)]
  · simp [*, eq_comm (a := c)]

/-! ### The opcode check (30_encoding.md R75 step 1) -/

/-- The opcodes of `NOP`, `CLR`, `KSCHED`, `ENCR` and `CASC` (30_encoding.md R74). -/
abbrev IsFormatN (op : Nat) : Prop := op = 0x00 ∨ op = 0x01 ∨ op = 0x20 ∨ op = 0x30 ∨ op = 0x40

/-- The opcodes of `PACKD` and `HEXO` (30_encoding.md R74). -/
abbrev IsFormatI (op : Nat) : Prop := op = 0x10 ∨ op = 0x50

/-- The opcode of `PACKK` (30_encoding.md R74). -/
abbrev IsFormatKI (op : Nat) : Prop := op = 0x11

/-- What decoding does with a value: the checks of the format its opcode names, for the command whose words have that
opcode, or none of them. -/
inductive DecodesBy (v : BitVec 64) : Prop
  | formatN (i : Instr) : IsFormatN (v.extractLsb' 24 8).toNat → WellFormed i = true →
      encode i = wordN (v.extractLsb' 24 8) → decode v = decodeN i v → DecodesBy v
  | formatI (mk : Nat → Instr) : IsFormatI (v.extractLsb' 24 8).toNat →
      (∀ idx, WellFormed (mk idx) = decide (idx < 65536)) →
      (∀ idx, encode (mk idx) = wordI (v.extractLsb' 24 8) idx) → decode v = decodeI mk v → DecodesBy v
  | formatKI : IsFormatKI (v.extractLsb' 24 8).toNat →
      (∀ k idx, encode (.packk k idx) = wordKI (v.extractLsb' 24 8) k idx) → decode v = decodeKI .packk v → DecodesBy v
  | unassigned : ¬IsFormatN (v.extractLsb' 24 8).toNat → ¬IsFormatI (v.extractLsb' 24 8).toNat →
      ¬IsFormatKI (v.extractLsb' 24 8).toNat → decode v = .error .illop → DecodesBy v

theorem decodesBy (v : BitVec 64) : DecodesBy v := by
  have hdecode := decode.eq_def v
  dsimp only at hdecode
  split_ifs at hdecode with h00 h01 h10 h11 h20 h30 h40 h50
  · exact .formatN .nop (by rw [h00]; decide) rfl (by rw [h00]; rfl) hdecode
  · exact .formatN .clr (by rw [h01]; decide) rfl (by rw [h01]; rfl) hdecode
  · exact .formatI .packd (by rw [h10]; decide) (fun _ => rfl) (fun _ => by rw [h10]; rfl) hdecode
  · exact .formatKI (by rw [h11]; decide) (fun _ _ => by rw [h11]; rfl) hdecode
  · exact .formatN .ksched (by rw [h20]; decide) rfl (by rw [h20]; rfl) hdecode
  · exact .formatN .encr (by rw [h30]; decide) rfl (by rw [h30]; rfl) hdecode
  · exact .formatN .casc (by rw [h40]; decide) rfl (by rw [h40]; rfl) hdecode
  · exact .formatI .hexo (by rw [h50]; decide) (fun _ => rfl) (fun _ => by rw [h50]; rfl) hdecode
  · simp only [← BitVec.toNat_inj, BitVec.toNat_ofNat] at h00 h01 h10 h11 h20 h30 h40 h50
    exact .unassigned (by omega) (by omega) h11 hdecode

/-! ### A value decodes to the command whose word it is (30_encoding.md R75 step 4) -/

theorem extractLsb'_cmdValue (w : CmdWord) {start len : Nat} (h : start + len ≤ 64) :
    (cmdValue w).extractLsb' start len = w.extractLsb' start len :=
  BitVec.extractLsb'_setWidth_of_le h

theorem high_cmdValue (w : CmdWord) : (cmdValue w).extractLsb' 32 32 = 0#32 := (eq_cmdValue_iff.mp rfl).1

theorem opcode_wordI (op : BitVec 8) (idx : Nat) : (cmdValue (wordI op idx)).extractLsb' 24 8 = op := by
  rw [extractLsb'_cmdValue _ (by decide), wordI, BitVec.extractLsb'_append_eq_of_le (by decide)]
  exact BitVec.extractLsb'_append_eq_left

theorem opcode_wordKI (op : BitVec 8) (k : KeySel) (idx : Nat) :
    (cmdValue (wordKI op k idx)).extractLsb' 24 8 = op := by
  rw [extractLsb'_cmdValue _ (by decide), wordKI, BitVec.extractLsb'_append_eq_of_le (by decide),
    BitVec.extractLsb'_append_eq_of_le (by decide)]
  exact BitVec.extractLsb'_append_eq_left

theorem decodeI_wordI {mk : Nat → Instr} {op : BitVec 8} {idx : Nat} (h : idx < 65536) :
    decodeI mk (cmdValue (wordI op idx)) = .ok (mk idx) := by
  obtain ⟨-, hzero, hidx⟩ := (eq_wordI_iff (w := wordI op idx)).mp ⟨h, rfl⟩
  rw [decodeI_eq_ok_iff, high_cmdValue, extractLsb'_cmdValue (start := 16) _ (by decide),
    extractLsb'_cmdValue (start := 0) _ (by decide), hidx]
  exact ⟨rfl, rfl, hzero⟩

theorem decodeKI_wordKI {mk : KeySel → Nat → Instr} {op : BitVec 8} {k : KeySel} {idx : Nat} (h : idx < 65536) :
    decodeKI mk (cmdValue (wordKI op k idx)) = .ok (mk k idx) := by
  obtain ⟨-, hksel, hzero, hidx⟩ := (eq_wordKI_iff (w := wordKI op k idx)).mp ⟨h, rfl⟩
  rw [decodeKI_eq_ok_iff, high_cmdValue, extractLsb'_cmdValue (start := 22) _ (by decide),
    extractLsb'_cmdValue (start := 16) _ (by decide), extractLsb'_cmdValue (start := 0) _ (by decide), hidx]
  exact ⟨⟨rfl, hzero⟩, k, hksel, rfl⟩

theorem decode_encode {i : Instr} (h : WellFormed i = true) : decode (cmdValue (encode i)) = .ok i := by
  cases i with
  | nop | clr | ksched | encr | casc => rfl
  | packd idx => simpa [decode, encode, opcode_wordI] using decodeI_wordI (of_decide_eq_true h)
  | packk k idx => simpa [decode, encode, opcode_wordKI] using decodeKI_wordKI (of_decide_eq_true h)
  | hexo idx => simpa [decode, encode, opcode_wordI] using decodeI_wordI (of_decide_eq_true h)

theorem encode_of_decode {w : CmdWord} {i : Instr} (h : decode (cmdValue w) = .ok i) :
    WellFormed i = true ∧ w = encode i := by
  have hfield {start len : Nat} := extractLsb'_cmdValue w (start := start) (len := len)
  cases decodesBy (cmdValue w) with
  | formatN j _ hwf hword hv =>
    obtain ⟨rfl, -, hzero⟩ := decodeN_eq_ok_iff.mp (hv.symm.trans h)
    rw [hfield (by decide)] at hword hzero
    rw [hword, eq_wordN_iff]
    exact ⟨hwf, rfl, hzero⟩
  | formatI mk _ hwf hword hv =>
    obtain ⟨rfl, -, hzero⟩ := decodeI_eq_ok_iff.mp (hv.symm.trans h)
    rw [hfield (by decide)] at hzero
    rw [hwf, decide_eq_true_iff, hword, hfield (by decide), hfield (by decide), eq_wordI_iff]
    exact ⟨rfl, hzero, rfl⟩
  | formatKI _ hword hv =>
    obtain ⟨⟨-, hzero⟩, k, hksel, rfl⟩ := decodeKI_eq_ok_iff.mp (hv.symm.trans h)
    rw [hfield (by decide)] at hzero hksel
    rw [WellFormed, decide_eq_true_iff, hword, hfield (by decide), hfield (by decide), eq_wordKI_iff]
    exact ⟨rfl, hksel, hzero, rfl⟩
  | unassigned _ _ _ hv =>
    rw [hv] at h
    cases h

theorem decode_cmdValue_eq_ok_iff {w : CmdWord} {i : Instr} :
    decode (cmdValue w) = .ok i ↔ WellFormed i = true ∧ w = encode i :=
  ⟨encode_of_decode, fun ⟨hwf, hw⟩ => hw ▸ decode_encode hwf⟩

theorem decode_eq_ok_iff {v : BitVec 64} {i : Instr} :
    decode v = .ok i ↔ WellFormed i = true ∧ v = cmdValue (encode i) := by
  constructor
  · intro h
    obtain ⟨hwf, hlow⟩ := encode_of_decode (decode_latched h)
    exact ⟨hwf, eq_cmdValue_iff.mpr ⟨high_zero_of_decode h, hlow⟩⟩
  · rintro ⟨hwf, rfl⟩
    exact decode_encode hwf

/-- Settles O5: the format of the opcode fixes which error a value can have, each under its own condition, and the last
clause is `decode_eq_ok_iff`. -/
theorem decodeChecksInOrder : Obligations.DecodeChecksInOrder := by
  unfold Obligations.DecodeChecksInOrder
  intro v op formatN formatI formatKI reserved
  suffices herror : ∀ c, decode v = .error c ↔
      c = .illop ∧ ¬(formatN ∨ formatI ∨ formatKI) ∨ c = .rsv ∧ (formatN ∨ formatI ∨ formatKI) ∧ reserved ∨
        c = .ksel ∧ formatKI ∧ ¬reserved ∧ v.extractLsb' 22 2 = 0 by
    refine ⟨by simp [herror], by simp [herror], by simp [herror], fun c hc => ?_, fun i => decode_eq_ok_iff⟩
    rw [herror] at hc
    tauto
  intro c
  cases decodesBy v with
  | formatN i hop _ _ hv =>
    have hN : formatN := hop
    have hI : ¬formatI := by omega
    have hKI : ¬formatKI := by omega
    simp [hv, decodeN_eq_error_iff, reserved, hN, hI, hKI]
  | formatI mk hop _ _ hv =>
    have hN : ¬formatN := by omega
    have hI : formatI := hop
    have hKI : ¬formatKI := by omega
    simp [hv, decodeI_eq_error_iff, reserved, hN, hI, hKI]
  | formatKI hop _ hv =>
    have hN : ¬formatN := by omega
    have hI : ¬formatI := by omega
    have hKI : formatKI := hop
    simp [hv, decodeKI_eq_error_iff, reserved, hN, hI, hKI]
  | unassigned hnotN hnotI hnotKI hv =>
    have hN : ¬formatN := hnotN
    have hI : ¬formatI := hnotI
    have hKI : ¬formatKI := hnotKI
    simp [hv, hN, hI, hKI, eq_comm (a := c)]

/-! ### The rows of the opcode map (30_encoding.md R74) -/

theorem append_and_append_eq_iff {m n : Nat} {x a c : BitVec m} {y b d : BitVec n} :
    (x ++ y) &&& (a ++ b) = c ++ d ↔ x &&& a = c ∧ y &&& b = d := by
  rw [BitVec.and_append, bitVec_append_inj]

/-- The mask of format N keeps every bit. -/
theorem and_maskN_eq_iff {w : CmdWord} {op : BitVec 8} : w &&& 0xFFFFFFFF#32 = wordN op ↔ w = wordN op := by
  rw [show (0xFFFFFFFF#32 : CmdWord) = BitVec.allOnes 32 from rfl, BitVec.and_allOnes]

/-- The mask of format I keeps the opcode and the zero field. -/
theorem and_maskI_eq_iff {w : CmdWord} {op : BitVec 8} :
    w &&& 0xFFFF0000#32 = wordI op 0 ↔ w.extractLsb' 24 8 = op ∧ w.extractLsb' 16 8 = 0#8 := by
  conv_lhs =>
    rw [word_eq_fieldsI w, wordI,
      show (0xFFFF0000#32 : CmdWord) = BitVec.allOnes 8 ++ BitVec.allOnes 8 ++ 0#16 from rfl]
  rw [append_and_append_eq_iff, append_and_append_eq_iff]
  simp only [BitVec.and_allOnes, BitVec.and_zero, and_true]

/-- The mask of format KI keeps the opcode and the zero field, but not the key slot. -/
theorem and_maskKI_eq_iff {w : CmdWord} {op : BitVec 8} :
    w &&& 0xFF3F0000#32 = op ++ 0#2 ++ 0#6 ++ 0#16 ↔ w.extractLsb' 24 8 = op ∧ w.extractLsb' 16 6 = 0#6 := by
  conv_lhs =>
    rw [word_eq_fieldsKI w,
      show (0xFF3F0000#32 : CmdWord) = BitVec.allOnes 8 ++ 0#2 ++ BitVec.allOnes 6 ++ 0#16 from rfl]
  rw [append_and_append_eq_iff, append_and_append_eq_iff, append_and_append_eq_iff]
  simp only [BitVec.and_allOnes, BitVec.and_zero, and_true]

/-- A row of format N: a command without fields. -/
theorem decode_word_rowN {w : CmdWord} {i : Instr} {op : BitVec 8} (hwf : WellFormed i = true)
    (hword : encode i = wordN op) : decode (cmdValue w) = .ok i ↔ w &&& 0xFFFFFFFF#32 = wordN op := by
  rw [decode_cmdValue_eq_ok_iff, and_maskN_eq_iff, hword, hwf, eq_self, true_and]

/-- A row of format I. -/
theorem decode_word_rowI {w : CmdWord} {i : Instr} {op : BitVec 8} {idx : Nat}
    (hwf : WellFormed i = decide (idx < 65536)) (hword : encode i = wordI op idx) :
    decode (cmdValue w) = .ok i ↔ w &&& 0xFFFF0000#32 = wordI op 0 ∧ (w.extractLsb' 0 16).toNat = idx := by
  rw [decode_cmdValue_eq_ok_iff, and_maskI_eq_iff, hword, hwf, decide_eq_true_iff, eq_wordI_iff, and_assoc]

/-- The row of `PACKK`. -/
theorem decode_word_rowKI {w : CmdWord} {k : KeySel} {idx : Nat} : decode (cmdValue w) = .ok (.packk k idx) ↔
    w &&& 0xFF3F0000#32 = 0x11#8 ++ 0#2 ++ 0#6 ++ 0#16 ∧ w.extractLsb' 22 2 = keySelBits k ∧
      (w.extractLsb' 0 16).toNat = idx := by
  rw [decode_cmdValue_eq_ok_iff, and_maskKI_eq_iff, WellFormed, encode, decide_eq_true_iff, eq_wordKI_iff]
  tauto

/-- Settles O4: the command of a word is the one whose word it is, and each row's mask keeps exactly the bits that the
row's words have in common. -/
theorem opcodeMapSelects : Obligations.OpcodeMapSelects := by
  unfold Obligations.OpcodeMapSelects
  exact fun w => ⟨decode_word_rowN (op := 0x00#8) rfl rfl, decode_word_rowN (op := 0x01#8) rfl rfl,
    fun _ => decode_word_rowI (op := 0x10#8) rfl rfl, fun _ _ => decode_word_rowKI,
    decode_word_rowN (op := 0x20#8) rfl rfl, decode_word_rowN (op := 0x30#8) rfl rfl,
    decode_word_rowN (op := 0x40#8) rfl rfl, fun _ => decode_word_rowI (op := 0x50#8) rfl rfl⟩

end Sys2Proof.Machine

/-! PROOFS. The statements of 40_bitcodec.md: a chunk's run of reads and the packed value R90 writes out, for any
buffer, then the packs. -/
namespace Sys2Proof.Machine

/-! ### A chunk of any character buffer (40_bitcodec.md R90, R91) -/

/-- A chunk's cells are a run of `chunkSize` cells. -/
theorem isChunkCell_iff_lt_chunkSize {len idx n : Nat} :
    isChunkCell len idx n ↔ 4 * idx ≤ n ∧ n < 4 * idx + chunkSize len idx := by
  rw [isChunkCell, chunkSize]
  omega

theorem fetchChunk_succeeds {S : Space} {m : Cells 16} {cap len idx : Nat} (h : ChunkWritten m cap len idx) :
    ∃ cs, fetchChunk S m cap len idx = .ok cs :=
  fetchCells_succeeds fun n hlow hhigh => h n (isChunkCell_iff_lt_chunkSize.mpr ⟨hlow, hhigh⟩)

/-- Slot `j` of a chunk is a cell below the length or, at and above it, missing. -/
theorem toNat_getD_of_fetchChunk {S : Space} {m : Cells 16} {cap len idx j : Nat} {cs : List CharCell}
    (h : fetchChunk S m cap len idx = .ok cs) (hj : j < 4) : (cs.getD j 0).toNat = slotValue m len idx j := by
  obtain ⟨hlength, hcells⟩ := fetchCells_ok.mp h
  rw [chunkSize] at hlength
  rw [slotValue]
  split
  next hbelow =>
    have hslot : j < cs.length := by omega
    obtain ⟨-, hread⟩ := hcells j hslot
    simp [hread, hslot]
  next habove =>
    have hmissing : cs.length ≤ j := by omega
    simp [hmissing]

/-- The block packed from a chunk is R90's sum over the buffer. -/
theorem packChunk_of_fetchChunk {S : Space} {m : Cells 16} {cap len idx : Nat} {cs : List CharCell}
    (h : fetchChunk S m cap len idx = .ok cs) : packChunk cs = packValue m len idx := by
  rw [packChunk_eq, packValue, toNat_getD_of_fetchChunk h (j := 0) (by decide),
    toNat_getD_of_fetchChunk h (j := 1) (by decide), toNat_getD_of_fetchChunk h (j := 2) (by decide),
    toNat_getD_of_fetchChunk h (j := 3) (by decide)]

/-! ### The packs -/

/-- Settles O17: the chunk is read as a whole, and what it packs to is R90's sum. -/
theorem packdLoadsChunk : Obligations.PackdLoadsChunk := by
  unfold Obligations.PackdLoadsChunk
  intro s idx hwritten
  obtain ⟨cs, hcs⟩ := fetchChunk_succeeds (S := .dmem) hwritten
  rw [← packChunk_of_fetchChunk hcs]
  exact exec_packd_next.mpr ⟨cs, hcs, rfl⟩

end Sys2Proof.Machine

/-! PROOFS. The statements of 41_keyscheduler.md: the rotation of any word and of the two constant ones, `permute` on
the constant words, then every round key of `Derive` by its total rotation (R108), and the segment bits that PC-1
discards (R106). -/
namespace Sys2Proof.Machine

/-! ### The left rotation (41_keyscheduler.md R104) -/

/-- Rotations add up. -/
theorem rotateLeft_rotateLeft {w : Nat} (v : BitVec w) (a b : Nat) :
    (v.rotateLeft a).rotateLeft b = v.rotateLeft (a + b) := by
  refine eq_of_getMsbD fun j hj => ?_
  have hinner : (b + j) % w < w := Nat.mod_lt _ (by omega)
  simp only [BitVec.getMsbD_rotateLeft, hj, hinner, decide_true, Bool.true_and, Nat.add_mod_mod, Nat.add_assoc]

/-- A full turn leaves every word as it was. -/
theorem rotateLeft_width {w : Nat} (v : BitVec w) : v.rotateLeft w = v := by
  refine eq_of_getMsbD fun j hj => ?_
  simp [BitVec.getMsbD_rotateLeft, hj, Nat.mod_eq_of_lt hj]

/-- A word whose bits are all equal is its own rotation by any amount. -/
theorem rotateLeft_of_constant {w : Nat} {v : BitVec w} (h : v = 0 ∨ v = BitVec.allOnes w) (n : Nat) :
    v.rotateLeft n = v := by
  refine eq_of_getMsbD fun j hj => ?_
  have hread : (n + j) % w < w := Nat.mod_lt _ (by omega)
  rw [BitVec.getMsbD_rotateLeft]
  obtain rfl | rfl := h
  · simp
  · simp [hj, hread]

/-! ### `permute` on the constant words (00_scope.md R8) -/

theorem permute_zero {m n : Nat} (t : Vector Nat m) : permute t (0 : BitVec n) = 0 := by
  refine eq_of_getMsbD fun j hj => ?_
  rw [getMsbD_permute t 0 j hj]
  simp [dbit]

/-- Only a table that names bits of its input alone selects ones from the all-one word. -/
theorem permute_allOnes {m n : Nat} {t : Vector Nat m} (h : tableInRange n t) :
    permute t (BitVec.allOnes n) = BitVec.allOnes m := by
  refine eq_of_getMsbD fun j hj => ?_
  obtain ⟨hlow, hhigh⟩ := h t[j] (by simp)
  have hbit : n - t[j] < n := by omega
  rw [getMsbD_permute t _ j hj]
  simp [dbit, hj, hbit]

/-! ### The total rotations (41_keyscheduler.md R108) -/

/-- Round key `i` comes from the first halves rotated by the sum of the rotations up to round `i`. -/
theorem roundKeysFrom_getElem (t : Tables) {ns : List Nat} (hns : ∀ n ∈ ns, n < 28) (c d : KeyHalf) {i : Nat}
    (hi : i < (roundKeysFrom t ns c d).length) : (roundKeysFrom t ns c d)[i] =
      permute t.pc2 (c.rotateLeft (ns.take (i + 1)).sum ++ d.rotateLeft (ns.take (i + 1)).sum) := by
  induction ns generalizing c d i with
  | nil => simp [roundKeysFrom] at hi
  | cons n ns ih =>
    have hn : n < 28 := hns n (by simp)
    cases i with
    | zero => simp [roundKeysFrom, rol28_eq_rotateLeft, hn]
    | succ i =>
      have htail := ih (fun x hx => hns x (by simp [hx])) (rol28 c n) (rol28 d n) (i := i)
        (by simpa [roundKeysFrom] using hi)
      simpa [roundKeysFrom, rol28_eq_rotateLeft, hn, rotateLeft_rotateLeft] using htail

/-- The table of total rotations is the running sum of `SHIFTS`. -/
theorem shiftTotals_eq_sum (i : Fin 16) : shiftTotals[i] = (shifts.take (i + 1)).sum := by
  revert i
  decide

/-- Each round key by its total rotation (41_keyscheduler.md R100, R105, R108). -/
theorem derive_getElem (T : Tables) (g : Block) (i : Fin 16) : (derive T g)[i] =
    permute T.pc2 ((keyHalfC T g).rotateLeft shiftTotals[i] ++ (keyHalfD T g).rotateLeft shiftTotals[i]) := by
  have hshifts : ∀ n ∈ shifts, n < 28 := by decide
  rw [shiftTotals_eq_sum, ← roundKeysFrom_getElem T hshifts]
  · simp [derive]
  · simp [roundKeysFrom_length, shifts]

/-- The total rotation of the last round is a full turn. -/
theorem derive_getElem_last (T : Tables) (g : Block) :
    (derive T g)[15] = permute T.pc2 (keyHalfC T g ++ keyHalfD T g) := by
  calc (derive T g)[15]
      _ = permute T.pc2 ((keyHalfC T g).rotateLeft 28 ++ (keyHalfD T g).rotateLeft 28) := derive_getElem T g 15
      _ = permute T.pc2 (keyHalfC T g ++ keyHalfD T g) := by rw [rotateLeft_width, rotateLeft_width]

/-- Halves that no rotation changes give the same key in every round. -/
theorem derive_of_constant {T : Tables} {g : Block} (hC : keyHalfC T g = 0 ∨ keyHalfC T g = BitVec.allOnes 28)
    (hD : keyHalfD T g = 0 ∨ keyHalfD T g = BitVec.allOnes 28) :
    derive T g = Vector.replicate 16 (permute T.pc2 (keyHalfC T g ++ keyHalfD T g)) := by
  ext1 i hi
  have hkey := derive_getElem T g ⟨i, hi⟩
  rw [rotateLeft_of_constant hC, rotateLeft_of_constant hD] at hkey
  simpa using hkey

theorem derive_zero (T : Tables) : derive T 0 = Vector.replicate 16 0 := by
  have hC : keyHalfC T 0 = 0 := by rw [keyHalfC, permute_zero]; rfl
  have hD : keyHalfD T 0 = 0 := by rw [keyHalfD, permute_zero]; rfl
  rw [derive_of_constant (.inl hC) (.inl hD), hC, hD]
  exact congrArg _ (permute_zero T.pc2)

theorem derive_allOnes {T : Tables} (hpc1 : tableInRange 64 T.pc1) (hpc2 : tableInRange 56 T.pc2) :
    derive T (BitVec.allOnes 64) = Vector.replicate 16 (BitVec.allOnes 48) := by
  have hC : keyHalfC T (BitVec.allOnes 64) = BitVec.allOnes 28 := by rw [keyHalfC, permute_allOnes hpc1]; rfl
  have hD : keyHalfD T (BitVec.allOnes 64) = BitVec.allOnes 28 := by rw [keyHalfD, permute_allOnes hpc1]; rfl
  rw [derive_of_constant (.inr hC) (.inr hD), hC, hD]
  exact congrArg _ (permute_allOnes hpc2)

/-- Settles O33: rotations add up (`roundKeysFrom_getElem`), 28 is a full turn, and a half of equal bits is its own
rotation; segment 0 and the all-one segment have such halves because `permute` keeps the constant words. -/
theorem totalRotations : Obligations.TotalRotations := by
  unfold Obligations.TotalRotations
  exact ⟨shiftTotals_eq_sum, derive_getElem, derive_getElem_last,
    fun T g hC hD i => by simp [derive_of_constant hC hD],
    derive_zero, derive_allOnes (by decide) (by decide)⟩

/-! ### The segment bits PC-1 discards (41_keyscheduler.md R106) -/

/-- `Derive` sees a segment through PC-1 only. -/
theorem derive_congr {T : Tables} {g g' : Block} (h : ∀ x ∈ T.pc1.toList, dbit g x = dbit g' x) :
    derive T g = derive T g' := by
  have hpc1 : permute T.pc1 g = permute T.pc1 g' := permute_congr h
  have hC : keyHalfC T g = keyHalfC T g' := by rw [keyHalfC, keyHalfC, hpc1]
  have hD : keyHalfD T g = keyHalfD T g' := by rw [keyHalfD, keyHalfD, hpc1]
  ext1 i hi
  have hkey : (derive T g)[(⟨i, hi⟩ : Fin 16)] = (derive T g')[(⟨i, hi⟩ : Fin 16)] := by
    rw [derive_getElem, derive_getElem, hC, hD]
  exact hkey

/-- Changes under a mask are invisible at a bit outside it. -/
theorem dbit_xor_and_of_mask_clear {n : Nat} {g m mask : BitVec n} {x : Nat} (h : dbit mask x = false) :
    dbit (g ^^^ (m &&& mask)) x = dbit g x := by
  rw [dbit] at h
  simp [dbit, h]

/-- Settles O34: no entry of the published PC-1 names one of the eight positions. -/
theorem deriveIgnoresParityBits : Obligations.DeriveIgnoresParityBits := by
  unfold Obligations.DeriveIgnoresParityBits
  intro T g m hT
  have houtside : ∀ x ∈ pc1Published.toList, dbit (0x0101010101010101#64) x = false := by decide
  refine derive_congr fun x hx => dbit_xor_and_of_mask_clear (houtside x ?_)
  rwa [hT] at hx

end Sys2Proof.Machine

/-! PROOFS. The statements of 42_blockcipher.md: the halves after any number of rounds and `Encrypt` by them (R115 to
R119), then the round function group by group (R120, R122, R123). -/
namespace Sys2Proof.Machine

/-! ### The sixteen rounds (42_blockcipher.md R117 to R119) -/

/-- The rounds of two lists of round keys are those of the first, then those of the second. -/
theorem feistelRounds_append (t : Tables) (ks ks' : List RoundKey) (l r : Half) : feistelRounds t (ks ++ ks') l r =
    feistelRounds t ks' (feistelRounds t ks l r).1 (feistelRounds t ks l r).2 := by
  induction ks generalizing l r with
  | nil => rfl
  | cons k ks ih => exact ih r (l ^^^ feistelF t r k)

/-- The halves `(L, R)` of `Encrypt` after the first `n` rounds (42_blockcipher.md R117, R118). -/
def halvesAfter (t : Tables) (blk : Block) (rk : Vector RoundKey 16) (n : Nat) : Half × Half :=
  feistelRounds t (rk.toList.take n) ((permute t.ip blk).extractLsb' 32 32) ((permute t.ip blk).extractLsb' 0 32)

theorem halvesAfter_zero (t : Tables) (blk : Block) (rk : Vector RoundKey 16) : halvesAfter t blk rk 0 =
    ((permute t.ip blk).extractLsb' 32 32, (permute t.ip blk).extractLsb' 0 32) := rfl

/-- One round more: both new halves come from the old ones (42_blockcipher.md R118). -/
theorem halvesAfter_succ (t : Tables) (blk : Block) (rk : Vector RoundKey 16) (i : Fin 16) :
    halvesAfter t blk rk (i + 1) = ((halvesAfter t blk rk i).2,
      (halvesAfter t blk rk i).1 ^^^ feistelF t (halvesAfter t blk rk i).2 rk[i]) := by
  have hi : i < rk.toList.length := by simp
  rw [halvesAfter, List.take_succ_eq_append_getElem hi, feistelRounds_append]
  rfl

/-- `Encrypt` is FP of `R16 || L16` (42_blockcipher.md R119). -/
theorem encrypt_eq_permute_halvesAfter (t : Tables) (blk : Block) (rk : Vector RoundKey 16) : encrypt t blk rk =
    permute t.fp ((halvesAfter t blk rk 16).2 ++ (halvesAfter t blk rk 16).1) := by
  have hall : rk.toList.take 16 = rk.toList := List.take_of_length_le (by simp)
  rw [encrypt, halvesAfter, hall]

/-- Settles O23: the two sequences are the halves after each number of rounds. -/
theorem encrRunsSixteenRounds : Obligations.EncrRunsSixteenRounds := by
  unfold Obligations.EncrRunsSixteenRounds
  intro s
  refine ⟨fun n => (halvesAfter s.cfg.tables s.blk s.rk n).1, fun n => (halvesAfter s.cfg.tables s.blk s.rk n).2,
    congrArg Prod.fst (halvesAfter_zero _ _ _), congrArg Prod.snd (halvesAfter_zero _ _ _), fun i => ?_,
    exec_encr_next.mpr ?_⟩
  · exact Prod.ext_iff.mp (halvesAfter_succ s.cfg.tables s.blk s.rk i)
  · rw [encrypt_eq_permute_halvesAfter]
    rfl

/-! ### The round function by its groups (42_blockcipher.md R120, R122, R123) -/

theorem sboxRow_val (g : BitVec 6) : (sboxRow g).val = 2 * (g.getLsbD 5).toNat + (g.getLsbD 0).toNat := by
  revert g
  decide

/-- Nibble `n` of the substitution, counted from the most significant end, is box `n` at group `n`. -/
theorem extractLsb'_substitute (t : Tables) (x : BitVec 48) (n : Fin 8) :
    (substitute t x).extractLsb' (28 - 4 * n) 4 = sboxOut t n (x.extractLsb' (42 - 6 * n) 6) := by
  unfold substitute
  fin_cases n
  -- drop the nibbles below the one asked for; it is then the lowest, and for box 0 the only one
  all_goals simp (disch := omega) only [BitVec.extractLsb'_append_eq_of_le]
  · exact BitVec.extractLsb'_eq_self
  all_goals exact BitVec.extractLsb'_append_eq_right

/-- Settles O35: the value before P is the substitution, read nibble by nibble (`extractLsb'_substitute`). -/
theorem roundFunctionByGroups : Obligations.RoundFunctionByGroups := by
  unfold Obligations.RoundFunctionByGroups
  intro T r k
  refine ⟨substitute T (permute T.e r ^^^ k), rfl, fun n row col g hg hrow hcol => ?_⟩
  obtain rfl : row = sboxRow g := Fin.ext (hrow.trans (sboxRow_val g).symm)
  obtain rfl : col = sboxCol g := Fin.ext hcol
  rw [extractLsb'_substitute, ← hg, sboxOut]

end Sys2Proof.Machine

/-! PROOFS. The statements of 43_cascade.md: `Cascade` on strings block by block (R147 to R149), then the state `CASC`
leaves on loaded buffers (R151), last the inputs it is a function of (R150). -/
namespace Sys2Proof.Machine

/-! ### The digits of one block (43_cascade.md R140) -/

/-- The sixteen digits of plaintext block `b` taken through the segments `segs` (43_cascade.md R140). -/
def blockDigits (T : Tables) (segs : List Block) (data : List CharCell) (b : Nat) : List DigitCell :=
  hexDigits (encryptUnder T segs (packString data b))

@[simp] theorem blockDigits_length (T : Tables) (segs : List Block) (data : List CharCell) (b : Nat) :
    (blockDigits T segs data b).length = 16 := hexDigits_length _

theorem cascade_eq_flatMap_blockDigits (T : Tables) (data key1 key2 key3 : List CharCell) :
    cascade T data key1 key2 key3 = (List.range (ceil4 data.length)).flatMap
      (blockDigits T (keySegments key1 ++ keySegments key2 ++ keySegments key3) data) := rfl

theorem flatMap_blockDigits_length (T : Tables) (segs : List Block) (data : List CharCell) (n : Nat) :
    ((List.range n).flatMap (blockDigits T segs data)).length = 16 * n := by
  simp [List.length_flatMap, Nat.mul_comm]

/-- Settles O38: every block gives sixteen digits. -/
theorem cascadeLength : Obligations.CascadeLength := by
  unfold Obligations.CascadeLength
  intro T data key1 key2 key3
  rw [cascade_eq_flatMap_blockDigits, flatMap_blockDigits_length]

/-! ### Blocks are independent (43_cascade.md R148) -/

/-- Group `b` of a concatenation of groups of sixteen. -/
theorem take_drop_flatMap_block {α : Type} {f : Nat → List α} {n b : Nat} (hb : b < n)
    (hf : ∀ x, (f x).length = 16) : (((List.range n).flatMap f).drop (16 * b)).take 16 = f b := by
  refine List.ext_getElem? fun i => ?_
  rw [List.getElem?_take]
  split
  next hi => rw [List.getElem?_drop, flatMap_block hb hi hf]
  next hi => rw [List.getElem?_eq_none (by rw [hf]; omega)]

/-- A string of one chunk gives one block. -/
theorem cascade_of_one_chunk (T : Tables) {data : List CharCell} (key1 key2 key3 : List CharCell)
    (h : ceil4 data.length = 1) : cascade T data key1 key2 key3 =
      blockDigits T (keySegments key1 ++ keySegments key2 ++ keySegments key3) data 0 := by
  rw [cascade_eq_flatMap_blockDigits, h, List.range_one, List.flatMap_singleton]

/-- Chunk `b` of a string packs as the only chunk of itself. -/
theorem packString_chunk (data : List CharCell) (b : Nat) :
    packString ((data.drop (4 * b)).take 4) 0 = packString data b := by
  rw [packString, packString, Nat.mul_zero, List.drop_zero, List.take_take, Nat.min_self]

/-- Settles O40: group `b` of the output is `blockDigits` of block `b`, which sees the plaintext through the packed
chunk alone, and the chunk taken as a string is one block with the same packing. -/
theorem cascadeBlocksIndependent : Obligations.CascadeBlocksIndependent := by
  unfold Obligations.CascadeBlocksIndependent
  intro T data key1 key2 key3 b hb
  have hone : ceil4 ((data.drop (4 * b)).take 4).length = 1 := by
    simp only [ceil4, List.length_take, List.length_drop] at hb ⊢
    omega
  rw [cascade_of_one_chunk T key1 key2 key3 hone, cascade_eq_flatMap_blockDigits,
    take_drop_flatMap_block hb (blockDigits_length T _ data), blockDigits, blockDigits, packString_chunk]

/-! ### The keys are seen through their segments (43_cascade.md R147) -/

theorem cascade_congr_segments (T : Tables) (data : List CharCell) {k1 k2 k3 j1 j2 j3 : List CharCell}
    (h : keySegments k1 ++ keySegments k2 ++ keySegments k3 = keySegments j1 ++ keySegments j2 ++ keySegments j3) :
    cascade T data k1 k2 k3 = cascade T data j1 j2 j3 := by
  rw [cascade_eq_flatMap_blockDigits, cascade_eq_flatMap_blockDigits, h]

/-- A key that is not provided has no segment (43_cascade.md R144). -/
@[simp] theorem keySegments_nil : keySegments [] = [] := rfl

/-- The chunks of a string of whole chunks are not changed by what follows it. -/
theorem packString_append_left {a : List CharCell} (b : List CharCell) {i : Nat} (h : 4 * i + 4 ≤ a.length) :
    packString (a ++ b) i = packString a i := by
  rw [packString, packString, List.drop_append_of_le_length (by omega),
    List.take_append_of_le_length (by rw [List.length_drop]; omega)]

/-- The chunks after a string of `n` whole chunks are those of what follows it. -/
theorem packString_append_right {a : List CharCell} (b : List CharCell) {n : Nat} (h : a.length = 4 * n) (i : Nat) :
    packString (a ++ b) (n + i) = packString b i := by
  rw [packString, packString, Nat.mul_add, ← h, List.drop_length_add_append]

/-- Split at a multiple of 4 characters, a key has the segments of its two parts. -/
theorem keySegments_append {a : List CharCell} (b : List CharCell) (h : a.length % 4 = 0) :
    keySegments (a ++ b) = keySegments a ++ keySegments b := by
  obtain ⟨n, hn⟩ : ∃ n, a.length = 4 * n := ⟨a.length / 4, by omega⟩
  have ha : ceil4 a.length = n := by rw [ceil4]; omega
  have hab : ceil4 (a ++ b).length = n + ceil4 b.length := by rw [List.length_append, ceil4, ceil4]; omega
  rw [keySegments, keySegments, keySegments, ha, hab, List.range_add, List.map_append, List.map_map]
  congr 1
  · refine List.map_congr_left fun i hi => packString_append_left b ?_
    have := List.mem_range.mp hi
    omega
  · exact List.map_congr_left fun i _ => packString_append_right b hn i

/-- Settles O39: `cascade` takes the segment list and nothing else of the keys (`cascade_congr_segments`); an absent key
has no segment, and splitting a key at whole chunks splits its segment list. -/
theorem cascadeSeesSegmentListOnly : Obligations.CascadeSeesSegmentListOnly := by
  unfold Obligations.CascadeSeesSegmentListOnly
  refine ⟨fun T data _ _ _ _ _ _ h => cascade_congr_segments T data h, fun T data a b => ⟨?_, ?_⟩,
    fun T data a b c ha hb => ?_, fun T data a b k ha => ⟨?_, ?_⟩⟩
  · exact cascade_congr_segments T data (by simp)
  · exact cascade_congr_segments T data (by simp)
  · have hab : (a ++ b).length % 4 = 0 := by rw [List.length_append]; omega
    exact cascade_congr_segments T data (by rw [keySegments_append c hab, keySegments_append b ha]; simp)
  · exact cascade_congr_segments T data (by simp [keySegments_append b ha])
  · exact cascade_congr_segments T data (by simp [keySegments_append b ha])

/-! ### The state `CASC` leaves (43_cascade.md R151) -/

/-- Two runs of writes, the second where the first ends, are one. -/
theorem writeCells_append {w : Nat} (m : Cells w) (i : Nat) (vs ws : List (BitVec w)) :
    writeCells m i (vs ++ ws) = writeCells (writeCells m i vs) (i + vs.length) ws := by
  induction vs generalizing m i with
  | nil => rfl
  | cons v vs ih =>
    rw [List.cons_append, writeCells, writeCells, ih, List.length_cons, Nat.add_right_comm, Nat.add_assoc]

/-- The last round of a counted loop comes after the rounds before it. -/
theorem foldlM_range_succ (f : State → Nat → Result) (n : Nat) (s : State) :
    (List.range (n + 1)).foldlM f s = (List.range n).foldlM f s >>= fun t => f t n := by
  simp [List.range_succ, List.foldlM_append]

/-- `CASC` with no plaintext (43_cascade.md R145, R151). -/
theorem exec_casc_of_no_plaintext {s : State} (h : s.dlen = 0) :
    exec .casc s = .next { s with olen := 0, busy := false, done := true } := by
  have hnone : ceil4 s.dlen.toNat = 0 := by rw [h]; rfl
  exact exec_casc_next.mpr ⟨s, by rw [hnone]; rfl, by rw [hnone]; rfl⟩

/-- A block packed, taken through the segments and stored: what blocks before it left in `BLK`, `SEG`, `RK` and `RKV`
it overwrites or, with no segment, leaves as they left it (43_cascade.md R151). -/
theorem afterSegments_setBlk_afterSegments (segs : List Block) (s : State) (x y : Block) (m : List Host.Cell) :
    afterSegments segs (((afterSegments segs (s.setBlk x)).setOmem m).setBlk y) =
      (afterSegments segs (s.setBlk y)).setOmem m := by
  unfold afterSegments
  cases segs.getLast? <;> rfl

/-- The first blocks of a loaded engine, at least one: the registers are those of the last of them, and `OMEM` has the
digits of all of them (43_cascade.md R142). -/
theorem cascBlocks_of_loaded {s : State} {data key1 key2 key3 : List CharCell} (h : Loaded s data key1 key2 key3)
    (hl : LengthsLegal s) {segs : List Block}
    (hsegs : segs = keySegments key1 ++ keySegments key2 ++ keySegments key3) {n : Nat} (hn : n < ceil4 data.length) :
    (List.range (n + 1)).foldlM cascBlock s = .ok ((afterSegments segs (s.setBlk (packString data n))).setOmem
      (writeCells s.omem 0 ((List.range (n + 1)).flatMap (blockDigits s.cfg.tables segs data)))) := by
  subst hsegs
  induction n with
  | zero =>
    rw [foldlM_range_succ, List.range_one, List.flatMap_singleton]
    exact cascBlock_of_loaded h hl (.refl s) hn
  | succ n ih =>
    rw [foldlM_range_succ, ih (by omega), bind_ok]
    refine ⟨_, rfl, ?_⟩
    rw [cascBlock_of_loaded h hl ⟨rfl⟩ hn, afterSegments_setBlk_afterSegments, List.range_succ (n := n + 1),
      List.flatMap_append, writeCells_append, flatMap_blockDigits_length, List.flatMap_singleton, Nat.zero_add]
    rfl

/-- `CASC` on loaded buffers with a plaintext: `OMEM` takes the whole result from cell 0 on, the registers are those of
the last block (43_cascade.md R142, R151). -/
theorem exec_casc_of_loaded {s : State} {data key1 key2 key3 : List CharCell} (h : Loaded s data key1 key2 key3)
    (hl : LengthsLegal s) (hdata : data ≠ []) {segs : List Block}
    (hsegs : segs = keySegments key1 ++ keySegments key2 ++ keySegments key3) :
    exec .casc s = .next (finish (((afterSegments segs (s.setBlk (packString data (ceil4 data.length - 1)))).setOmem
      (writeCells s.omem 0 (cascade s.cfg.tables data key1 key2 key3))).setOlen
        (BitVec.ofNat 32 (16 * ceil4 data.length)))) := by
  have hpos : 0 < data.length := List.length_pos_iff.mpr hdata
  have hlast : ceil4 data.length - 1 + 1 = ceil4 data.length := by simp only [ceil4]; omega
  have hrun := cascBlocks_of_loaded h hl hsegs (n := ceil4 data.length - 1) (by omega)
  rw [hlast, ← h.dlen] at hrun
  rw [cascade_eq_flatMap_blockDigits, ← hsegs, ← h.dlen]
  exact exec_casc_next.mpr ⟨_, hrun, rfl⟩

/-- Settles O29: `exec_casc_of_loaded`, where `OMEM` is one run of writes: digit `j` of block `b` is its element
`16 * b + j` (`flatMap_block`), and it ends at the new `OLEN` (`cascadeLength`). -/
theorem cascLeavesStateByCase : Obligations.CascLeavesStateByCase := by
  unfold Obligations.CascLeavesStateByCase
  refine ⟨fun s => exec_casc_of_no_plaintext, fun s data key1 key2 key3 h hl hdata segs hsegs =>
    ⟨_, exec_casc_of_loaded h hl hdata hsegs, fun b hb j hj => ?_, fun a ha => ?_⟩⟩
  · have hcell : 16 * b + j < (cascade s.cfg.tables data key1 key2 key3).length := by
      rw [cascadeLength]
      omega
    calc readCell (writeCells s.omem 0 (cascade s.cfg.tables data key1 key2 key3)) (16 * b + j)
        _ = (cascade s.cfg.tables data key1 key2 key3)[16 * b + j]? := by
          rw [← Nat.zero_add (16 * b + j), readCell_writeCells_inside _ _ _ hcell, Nat.zero_add,
            List.getElem?_eq_getElem hcell]
        _ = (hexDigits (encryptUnder s.cfg.tables segs (packString data b)))[j]? := by
          rw [hsegs]
          exact flatMap_block hb hj (blockDigits_length _ _ _)
  · refine readCell_writeCells_outside _ _ _ (.inr ?_)
    rwa [cascadeLength, Nat.zero_add]

/-! ### The inputs of `CASC` (43_cascade.md R150) -/

/-- `s` and `s'` agree on what `CASC` reads: the plaintext and the keys below their lengths (43_cascade.md R142,
R150). -/
structure SameInputs (s s' : State) : Prop where
  cfg : s'.cfg = s.cfg
  dlen : s'.dlen = s.dlen
  klen : ∀ k, klen s' k = klen s k
  dmem : ∀ n, n < s.dlen.toNat → readCell s'.dmem n = readCell s.dmem n
  kmem : ∀ k n, n < (Machine.klen s k).toNat → readCell (kmem s' k) n = readCell (kmem s k) n

/-- A cascade writes none of its inputs (43_cascade.md R151). -/
theorem SameInputs.of_onlyCascade {s s' t t' : State} (h : SameInputs s s') (ht : OnlyCascade s t)
    (ht' : OnlyCascade s' t') : SameInputs t t' where
  cfg := by rw [ht'.cfg, ht.cfg, h.cfg]
  dlen := by rw [ht'.dlen, ht.dlen, h.dlen]
  klen k := by rw [ht'.klen, ht.klen, h.klen]
  dmem n hn := by
    rw [ht.dlen] at hn
    rw [ht'.dmem, ht.dmem, h.dmem n hn]
  kmem k n hn := by
    rw [ht.klen] at hn
    rw [ht'.kmem, ht.kmem, h.kmem k n hn]

theorem fetchChunk_congr {S : Space} {m m' : Cells 16} {cap len idx : Nat}
    (h : ∀ n, n < len → readCell m' n = readCell m n) : fetchChunk S m' cap len idx = fetchChunk S m cap len idx :=
  fetchCells_congr fun j _ hj => h j (by rw [chunkSize] at hj; omega)

theorem SameInputs.plainChunk {s s' : State} (h : SameInputs s s') (b : Nat) : plainChunk s' b = plainChunk s b := by
  rw [Machine.plainChunk, Machine.plainChunk, h.cfg, h.dlen, fetchChunk_congr h.dmem]

theorem SameInputs.keyChunk {s s' : State} (h : SameInputs s s') (k : KeySel) (j : Nat) :
    keyChunk s' k j = keyChunk s k j := by
  rw [Machine.keyChunk, Machine.keyChunk, h.cfg, h.klen, fetchChunk_congr (h.kmem k)]

/-- A relation between two states that every round keeps holds after the loop. -/
theorem foldlM_relates {α : Type} {f : State → α → Result} {R : State → State → Prop}
    (hf : ∀ a s s' t, R s s' → f s a = .ok t → ∃ t', f s' a = .ok t' ∧ R t t') :
    ∀ {l : List α} {s s' t : State}, R s s' → l.foldlM f s = .ok t → ∃ t', l.foldlM f s' = .ok t' ∧ R t t'
  | [], s, s', t, hs, h => by
    rw [List.foldlM_nil] at h
    cases h
    exact ⟨s', rfl, hs⟩
  | a :: l, s, s', t, hs, h => by
    rw [List.foldlM_cons, bind_ok] at h
    obtain ⟨u, hu, ht⟩ := h
    obtain ⟨u', hu', hR⟩ := hf a s s' u hs hu
    obtain ⟨t', ht', hRt⟩ := foldlM_relates hf hR ht
    exact ⟨t', by rw [List.foldlM_cons, bind_ok]; exact ⟨u', hu', ht'⟩, hRt⟩

/-- The two runs after `n` blocks: the same inputs still, and the same output so far. -/
structure SameOutput (n : Nat) (s s' : State) : Prop extends SameInputs s s' where
  omem : ∀ j, j < 16 * n → readCell s'.omem j = readCell s.omem j

/-- The two runs inside block `n`: also the same state of the block. `SEG`, `RK` and `RKV` may differ, for each segment
writes them before it reads them (43_cascade.md R142). -/
structure SameBlock (n : Nat) (s s' : State) : Prop extends SameOutput n s s' where
  blk : s'.blk = s.blk

theorem packPlain_relates {b : Nat} {s s' t : State} (h : SameOutput b s s') (ht : packPlain b s = .ok t) :
    ∃ t', packPlain b s' = .ok t' ∧ SameBlock b t t' := by
  obtain ⟨cs, hcs, rfl⟩ := packPlain_ok.mp ht
  have ht' := packPlain_ok.mpr ⟨cs, (h.plainChunk b).trans hcs, rfl⟩
  exact ⟨_, ht', ⟨h.of_onlyCascade (packPlain_only ht) (packPlain_only ht'), h.omem⟩, rfl⟩

theorem cascSegment_relates {n : Nat} {k : KeySel} {j : Nat} {s s' t : State} (h : SameBlock n s s')
    (ht : cascSegment k j s = .ok t) : ∃ t', cascSegment k j s' = .ok t' ∧ SameBlock n t t' := by
  obtain ⟨u, hu, -⟩ := cascSegment_ok.mp ht
  obtain ⟨cs, hcs, -⟩ := packKey_ok.mp hu
  have hrun := cascSegment_of_chunk hcs
  have ht' := cascSegment_of_chunk ((h.keyChunk k j).trans hcs)
  cases ht.symm.trans hrun
  refine ⟨_, ht', ⟨h.of_onlyCascade (cascSegment_only ht) (cascSegment_only ht'), h.omem⟩, ?_⟩
  rw [h.cfg, h.blk]

theorem cascKey_relates {n : Nat} {k : KeySel} {s s' t : State} (h : SameBlock n s s') (ht : cascKey s k = .ok t) :
    ∃ t', cascKey s' k = .ok t' ∧ SameBlock n t t' := by
  rw [cascKey] at ht
  rw [cascKey, h.klen]
  exact foldlM_relates (fun j _ _ _ hR => cascSegment_relates (j := j) hR) h ht

/-- The digits of equal blocks, stored as the next sixteen cells. -/
theorem writeHex_relates {b : Nat} {s s' t : State} (h : SameBlock b s s') (ht : writeHex b s = .ok t) :
    ∃ t', writeHex b s' = .ok t' ∧ SameOutput (b + 1) t t' := by
  obtain ⟨hb, rfl⟩ := storeBlock_ok.mp ht
  have ht' : writeHex b s' = .ok (s'.setOmem (writeCells s'.omem (16 * b) (hexDigits s'.blk))) :=
    storeBlock_ok.mpr ⟨h.cfg ▸ hb, rfl⟩
  refine ⟨_, ht', h.of_onlyCascade (writeHex_only ht) (writeHex_only ht'), fun j hj => ?_⟩
  rw [State.setOmem_omem, State.setOmem_omem, h.blk, readCell_writeCells, readCell_writeCells]
  split
  next => rfl
  next houtside =>
    rw [hexDigits_length] at houtside
    exact h.omem j (by omega)

theorem cascBlock_relates {b : Nat} {s s' t : State} (h : SameOutput b s s') (ht : cascBlock s b = .ok t) :
    ∃ t', cascBlock s' b = .ok t' ∧ SameOutput (b + 1) t t' := by
  obtain ⟨u, v, hpack, hkeys, hhex⟩ := cascBlock_ok.mp ht
  obtain ⟨u', hpack', hu⟩ := packPlain_relates h hpack
  obtain ⟨v', hkeys', hv⟩ := foldlM_relates (fun k _ _ _ hR => cascKey_relates (k := k) hR) hu hkeys
  obtain ⟨t', hhex', ht'⟩ := writeHex_relates hv hhex
  exact ⟨t', cascBlock_ok.mpr ⟨u', v', hpack', hkeys', hhex'⟩, ht'⟩

theorem cascBlocks_relates {n : Nat} {s s' t : State} (h : SameInputs s s')
    (ht : (List.range n).foldlM cascBlock s = .ok t) :
    ∃ t', (List.range n).foldlM cascBlock s' = .ok t' ∧ SameOutput n t t' := by
  induction n generalizing t with
  | zero =>
    cases ht
    exact ⟨s', rfl, h, fun j hj => absurd hj (by omega)⟩
  | succ n ih =>
    rw [foldlM_range_succ, bind_ok] at ht
    obtain ⟨u, hu, hblock⟩ := ht
    obtain ⟨u', hu', hsame⟩ := ih hu
    obtain ⟨t', hblock', ht'⟩ := cascBlock_relates hsame hblock
    rw [foldlM_range_succ]
    exact ⟨t', bind_ok.mpr ⟨u', hu', hblock'⟩, ht'⟩

/-- Settles O30: two runs from the same inputs stay related block after block (`cascBlocks_relates`), whatever `BLK`,
`SEG`, `RK`, `RKV`, `OLEN` and `OMEM` were; after the last block the relation is equality of the strings. -/
theorem cascDependsOnInputsOnly : Obligations.CascDependsOnInputsOnly := by
  unfold Obligations.CascDependsOnInputsOnly
  intro s s' t hcfg hdlen hklen hdmem hkmem ht
  obtain ⟨u, hu, rfl⟩ := exec_casc_next.mp ht
  obtain ⟨u', hu', hsame⟩ := cascBlocks_relates ⟨hcfg, hdlen, hklen, hdmem, hkmem⟩ hu
  rw [← hdlen] at hu'
  exact ⟨_, exec_casc_next.mpr ⟨u', hu', rfl⟩, by rw [hdlen]; rfl, hsame.omem⟩

end Sys2Proof.Machine

/-! PROOFS. The statements of 44_hexencoder.md. -/
namespace Sys2Proof.Machine

/-- `Code` of a digit given as a number (44_hexencoder.md R156). -/
theorem digitCode_of_toNat {v : BitVec 4} {d : Nat} (h : d = v.toNat) :
    digitCode v = BitVec.ofNat 8 (if d < 10 then 0x30 + d else 0x41 + (d - 10)) := by
  subst h
  exact (apply_ite (BitVec.ofNat 8) _ _ _).symm

/-- Digit `j` of `Hex(blk)` is the code of `blk[63 - 4*j : 60 - 4*j]` as a number (44_hexencoder.md R155). -/
theorem hexDigits_getElem_of_toNat {b : Block} {j d : Nat} (h : j < (hexDigits b).length)
    (hd : d = b.toNat / 2 ^ (60 - 4 * j) % 16) :
    (hexDigits b)[j] = BitVec.ofNat 8 (if d < 10 then 0x30 + d else 0x41 + (d - 10)) := by
  have hslice : d = (b.extractLsb' (60 - 4 * j) 4).toNat := by
    rw [hd, BitVec.extractLsb'_toNat, Nat.shiftRight_eq_div_pow]
  rw [hexDigits_getElem, digitCode_of_toNat hslice]

/-- Settles O24: `OMEM` is one run of sixteen writes from cell `16 * idx`, so a cell inside it holds its digit and a cell
outside it is as before. -/
theorem hexoWritesDigits : Obligations.HexoWritesDigits := by
  unfold Obligations.HexoWritesDigits
  intro s idx hidx
  refine ⟨writeCells s.omem (16 * idx) (hexDigits s.blk), exec_hexo_next.mpr ⟨hidx, rfl⟩, fun j hj d hd => ?_,
    fun a ha => ?_⟩
  · have hcell : j < (hexDigits s.blk).length := by rwa [hexDigits_length]
    rw [readCell_writeCells_inside _ _ _ hcell, hexDigits_getElem_of_toNat hcell hd]
  · exact readCell_writeCells_outside _ _ _ (by rwa [hexDigits_length])

end Sys2Proof.Machine

/-! PROOFS. The statements of 45_control.md. -/
namespace Sys2Proof.Machine

/-- Settles O15: `NOP` is the completion `finish` alone, which writes `BUSY` and `DONE` (45_control.md R160). -/
theorem nopCompletes : Obligations.NopCompletes := by
  unfold Obligations.NopCompletes
  intro s
  rw [exec_nop, finish]

/-- A completed clearing of the registers is power-up of the same instance (10_state.md R38) except for `DONE`, the
buffers, and what has no reset value: the latch and the model's own fields. -/
theorem finish_clearRegisters_eq_powerUp (s : State) : finish (clearRegisters s) = { State.powerUp s.cfg with
    done := true
    dmem := s.dmem
    k1mem := s.k1mem
    k2mem := s.k2mem
    k3mem := s.k3mem
    omem := s.omem
    cmdl := s.cmdl
    agenda := s.agenda
    reply := s.reply
    draws := s.draws } := rfl

/-- Settles O16: `CLR` clears the registers and completes, and that is the power-up state with the buffers kept
(`finish_clearRegisters_eq_powerUp`; 45_control.md R161). -/
theorem clrCompletes : Obligations.ClrCompletes := by
  unfold Obligations.ClrCompletes
  intro s
  rw [exec_clr, finish_clearRegisters_eq_powerUp]

end Sys2Proof.Machine

/-! PROOFS. The statements of 60_exceptions.md: the checks of each host move against the order `moveError` writes down
(R172, R174). -/
namespace Sys2Proof.Machine

/-! ### What a failing check does -/

/-- A move from `s` to `t` whose checks give `e`: it raises that error and does nothing else, or it leaves `ERR` and
`ERRCODE` alone (60_exceptions.md R172). -/
def RaisesOnly (e : Option ErrCode) (s t : State) : Prop :=
  match e with
  | some c => t = raiseError c s
  | none => t.err = s.err ∧ t.errcode = s.errcode

/-- One last check, `p`, between an effect that raises nothing and the error `c`. -/
theorem RaisesOnly.ite {p : Prop} [Decidable p] {c : ErrCode} {s t : State} (h : RaisesOnly none s t) :
    RaisesOnly (if p then none else some c) s (if p then t else raiseError c s) := by
  split
  · exact h
  · rfl

/-! ### The host's writes -/

/-- The numbers of the register map as a write tells them apart: those it refuses, and the registers it reaches. -/
theorem writeNumber_cases (n : Nat) : (n = 0x01 ∨ n = 0x02 ∨ n = 0x07 ∨ 0x0A ≤ n) ∨
    n = 0x00 ∨ n = 0x03 ∨ (0x04 ≤ n ∧ n ≤ 0x06) ∨ n = 0x08 ∨ n = 0x09 := by
  omega

theorem moveError_regWrite_of_refused {s : State} {n : Nat} {v : BitVec 64} (hb : s.busy = false)
    (hn : n = 0x01 ∨ n = 0x02 ∨ n = 0x07 ∨ 0x0A ≤ n) : moveError s (.regWrite n v) = some .addr := by
  have hw : isHostWritable n = false := by
    simp only [isHostWritable, Bool.or_eq_false_iff, Bool.and_eq_false_iff, decide_eq_false_iff_not]
    omega
  simp [moveError, hb, hw]

theorem moveError_regWrite_cmd {s : State} {v : BitVec 64} (hb : s.busy = false) :
    moveError s (.regWrite 0x00 v) = issueFailure s v := by
  simp [moveError, hb, isHostWritable, isOverlong]

theorem moveError_regWrite_dlen {s : State} {v : BitVec 64} (hb : s.busy = false) :
    moveError s (.regWrite 0x03 v) = if v.toNat ≤ s.cfg.maxd then none else some .len := by
  simp [moveError, hb, isHostWritable, isOverlong, ← Nat.not_le, -not_le]

theorem moveError_regWrite_klen {s : State} {n : Nat} {v : BitVec 64} (hb : s.busy = false) (hlow : 0x04 ≤ n)
    (hhigh : n ≤ 0x06) : moveError s (.regWrite n v) = if v.toNat ≤ s.cfg.maxk then none else some .len := by
  have hn : n ≠ 0x00 ∧ n ≠ 0x03 ∧ 0x03 ≤ n := by omega
  simp [moveError, hb, isHostWritable, isOverlong, ← Nat.not_le, -not_le, hlow, hhigh, hn]

/-- The checks of the issue, in the order of 20_memory.md R57: a pending error, the decoding, the precondition. -/
theorem issue_raisesOnly (s : State) (v : BitVec 64) : RaisesOnly (issueFailure s v) s (issue v s) := by
  cases he : s.err with
  | true =>
    have hf : issueFailure s v = none := if_pos he
    rw [hf, issue]
    split
    · rw [if_pos he]
      exact ⟨rfl, rfl⟩
    · rw [if_pos he]
      split <;> exact ⟨rfl, rfl⟩
  | false =>
    simp only [issueFailure, issue, he, Bool.false_eq_true, if_false]
    cases decode v with
    | error c => rfl
    | ok i =>
      dsimp only
      cases issueError s i with
      | some c => rfl
      | none => exact ⟨rfl, rfl⟩

/-- The checks of a register write, in the order of 20_memory.md R54. -/
theorem hostRegWrite_raisesOnly (s : State) (n : Nat) (v : BitVec 64) :
    RaisesOnly (moveError s (.regWrite n v)) s (hostRegWrite n v s) := by
  cases hb : s.busy with
  | true =>
    rw [hostRegWrite_of_busy hb, moveError, if_pos hb]
    rfl
  | false =>
    obtain hn | rfl | rfl | ⟨hlow, hhigh⟩ | rfl | rfl := writeNumber_cases n
    · rw [hostRegWrite_of_refused hb hn, moveError_regWrite_of_refused hb hn]
      rfl
    · rw [hostRegWrite_of_mapped (r := .cmd) hb rfl, moveError_regWrite_cmd hb]
      exact issue_raisesOnly s v
    · rw [hostRegWrite_dlen hb, moveError_regWrite_dlen hb]
      exact .ite ⟨rfl, rfl⟩
    · obtain ⟨k, hk⟩ := exists_regOf_klen hlow hhigh
      rw [hostRegWrite_klen hb hk, moveError_regWrite_klen hb hlow hhigh]
      exact .ite ⟨State.setKlen_err .., State.setKlen_errcode ..⟩
    · rw [hostRegWrite_of_mapped (r := .blk) hb rfl, moveError, if_neg (by simp [hb])]
      exact ⟨rfl, rfl⟩
    · rw [hostRegWrite_of_mapped (r := .seg) hb rfl, moveError, if_neg (by simp [hb])]
      exact ⟨rfl, rfl⟩

/-- The checks of a buffer write, in the order of 20_memory.md R56. -/
theorem hostMemWrite_raisesOnly (s : State) (S : Space) (i : Nat) (v : CharCell) :
    RaisesOnly (moveError s (.memWrite S i v)) s (hostMemWrite S i v s) := by
  cases hb : s.busy with
  | true =>
    rw [hostMemWrite_of_busy hb, moveError, if_pos hb]
    rfl
  | false =>
    by_cases hS : S = .omem
    · rw [hostMemWrite_of_refused hb (.inl hS), moveError, if_neg (by simp [hb]), if_pos hS]
      rfl
    · rw [moveError, if_neg (by simp [hb]), if_neg hS]
      by_cases hi : i < spaceCap s.cfg S
      · rw [hostMemWrite_frame hb hS hi, if_pos hi]
        exact ⟨rfl, rfl⟩
      · rw [hostMemWrite_of_refused hb (.inr (Nat.not_lt.mp hi)), if_neg hi]
        rfl

/-! ### The host's reads -/

/-- A number is mapped when a register stands behind it (10_state.md section 3). -/
theorem isMapped_eq_isSome_regOf (n : Nat) : isMapped n = (regOf n).isSome := by
  by_cases hlow : n ≤ 0x0A
  · have hmap : ∀ n ≤ 0x0A, isMapped n = (regOf n).isSome := by decide
    exact hmap n hlow
  · by_cases hrk : 0x10 ≤ n ∧ n ≤ 0x1F
    · obtain ⟨i, hi⟩ := exists_regOf_rk hrk
      simp [isMapped, hi, hrk]
    · rw [regOf_unmapped (by omega)]
      simp only [isMapped, Option.isSome_none, Bool.or_eq_false_iff, Bool.and_eq_false_iff, decide_eq_false_iff_not]
      omega

/-- A mapped register is read without an error, drawn or settled (20_memory.md R53). -/
theorem hostRegRead_keeps_error {s : State} {n : Nat} {r : RegName} (hn : regOf n = some r) :
    (hostRegRead n s).err = s.err ∧ (hostRegRead n s).errcode = s.errcode := by
  by_cases hdrawn : s.busy = true ∧ isEngineWritten r = true
  · obtain ⟨hb, hr⟩ := hdrawn
    rw [hostRegRead_of_drawn hn hb hr]
    exact ⟨rfl, rfl⟩
  · have hsettled : s.busy = false ∨ isEngineWritten r = false := by
      rwa [not_and_or, Bool.not_eq_true, Bool.not_eq_true] at hdrawn
    rw [hostRegRead_of_settled hn hsettled]
    exact ⟨rfl, rfl⟩

/-- A read inside its buffer that does not fault raises no error (20_memory.md R55). -/
theorem hostMemRead_keeps_error {s t : State} {S : Space} {i : Nat} (hi : i < spaceCap s.cfg S)
    (h : hostMemRead S i s = .ok t) : t.err = s.err ∧ t.errcode = s.errcode := by
  cases hread : readSpace s S i with
  | none =>
    rw [hostMemRead_of_unwritten hi hread] at h
    cases h
  | some v =>
    rw [hostMemRead_of_written hi hread] at h
    cases h
    split <;> exact ⟨rfl, rfl⟩

/-! ### Any move -/

/-- The state after a failing check: a read answers 0, a write leaves the last answer (60_exceptions.md R172). -/
theorem hostMove_of_moveError_some {s : State} {m : HostMove} {c : ErrCode} (h : moveError s m = some c) :
    hostMove m s = .ok ((raiseError c s).setReply (if isRead m then 0 else s.reply)) := by
  have hreply : (raiseError c s).setReply s.reply = raiseError c s := by
    rw [raiseError_eq]
    rfl
  cases m with
  | regRead n =>
    rw [moveError, isMapped_eq_isSome_regOf] at h
    cases hn : regOf n with
    | some r => simp [hn] at h
    | none =>
      obtain rfl : ErrCode.addr = c := by simpa [hn] using h
      exact congrArg Except.ok (hostRegRead_of_unmapped hn)
  | regWrite n v =>
    have hw := hostRegWrite_raisesOnly s n v
    rw [h] at hw
    exact congrArg Except.ok (hw.trans hreply.symm)
  | memRead S i =>
    by_cases hi : i < spaceCap s.cfg S
    · simp [moveError, hi] at h
    · obtain rfl : ErrCode.addr = c := by simpa [moveError, hi] using h
      exact hostMemRead_of_outside (Nat.not_lt.mp hi)
  | memWrite S i v =>
    have hw := hostMemWrite_raisesOnly s S i v
    rw [h] at hw
    exact congrArg Except.ok (hw.trans hreply.symm)

/-- A move with no failing check leaves the pending error as it was (60_exceptions.md R172). -/
theorem hostMove_keeps_error {s t : State} {m : HostMove} (h : moveError s m = none) (ht : hostMove m s = .ok t) :
    t.err = s.err ∧ t.errcode = s.errcode := by
  cases m with
  | regRead n =>
    rw [moveError, isMapped_eq_isSome_regOf] at h
    cases ht
    cases hn : regOf n with
    | none => simp [hn] at h
    | some r => exact hostRegRead_keeps_error hn
  | regWrite n v =>
    have hw := hostRegWrite_raisesOnly s n v
    rw [h] at hw
    cases ht
    exact hw
  | memRead S i =>
    by_cases hi : i < spaceCap s.cfg S
    · exact hostMemRead_keeps_error hi ht
    · simp [moveError, hi] at h
  | memWrite S i v =>
    have hw := hostMemWrite_raisesOnly s S i v
    rw [h] at hw
    cases ht
    exact hw

/-- Settles O46: the four moves make their checks in the order of `moveError`; a failing one is `raiseError` beside the
answer (`hostMove_of_moveError_some`), and with none the pending error stays (`hostMove_keeps_error`). -/
theorem hostErrorsInOrder : Obligations.HostErrorsInOrder := by
  unfold Obligations.HostErrorsInOrder
  refine fun s m => ⟨fun c hc => ?_, fun hnone t ht => hostMove_keeps_error hnone ht⟩
  rw [hostMove_of_moveError_some hc, raiseError_eq]
  rfl

end Sys2Proof.Machine

/-! PROOFS. The rest of 30_encoding.md: the word of each command as a number (R71, R74), and the reference words. -/
namespace Sys2Proof.Machine

/-- Settles O2: `decode_encode`, which takes each command's word apart into the fields of its format. -/
theorem decodeOfEncode : Obligations.DecodeOfEncode := by
  unfold Obligations.DecodeOfEncode
  exact fun i hwf => decode_encode hwf

/-- A word of two fields as a number: the upper field counts the whole width of the lower one. -/
theorem toNat_append_eq_add {m n : Nat} (x : BitVec m) (y : BitVec n) :
    (x ++ y).toNat = x.toNat * 2 ^ n + y.toNat := by
  rw [BitVec.toNat_append, ← Nat.shiftLeft_add_eq_or_of_lt y.isLt, Nat.shiftLeft_eq]

theorem toNat_wordI (op : BitVec 8) {idx : Nat} (h : idx < 65536) : (wordI op idx).toNat = op.toNat * 2 ^ 24 + idx := by
  simp only [wordI, toNat_append_eq_add, BitVec.toNat_ofNat]
  omega

theorem toNat_wordKI (op : BitVec 8) (k : KeySel) {idx : Nat} (h : idx < 65536) :
    (wordKI op k idx).toNat = op.toNat * 2 ^ 24 + (keySelBits k).toNat * 2 ^ 22 + idx := by
  simp only [wordKI, toNat_append_eq_add, BitVec.toNat_ofNat]
  omega

/-- Settles O3: the constant words are evaluated, the others are the sum of their fields. -/
theorem wordValues : Obligations.WordValues := by
  unfold Obligations.WordValues
  exact ⟨rfl, rfl, rfl, rfl, rfl, fun idx h => ⟨toNat_wordI 0x10#8 h, toNat_wordI 0x50#8 h,
    toNat_wordKI 0x11#8 .key1 h, toNat_wordKI 0x11#8 .key2 h, toNat_wordKI 0x11#8 .key3 h⟩⟩

/-- Settles O1: closed words, decoded by evaluation. -/
theorem referenceWordsDecode : Obligations.ReferenceWordsDecode := by
  unfold Obligations.ReferenceWordsDecode
  decide

end Sys2Proof.Machine

/-! PROOFS. What a step can change (10_state.md): the writes of a running cascade, the fields each command and each host
move leaves, and with them the invariants (R22 to R28, R36, 44_hexencoder.md R156). -/
namespace Sys2Proof.Machine

/-! ### Properties that every step keeps -/

/-- A property that the engine's turn on an accepted command, every host move and reset keep, and that does not look at
the agenda, is kept by every step. -/
theorem step_keeps {P : State → Prop} (hagenda : ∀ s ts, P s → P (s.setAgenda ts))
    (hexec : ∀ i s t, P s → exec i s = .next t → P t) (hhost : ∀ m s t, P s → hostMove m s = .ok t → P t)
    (hreset : ∀ s, P s → P (resetEngine s)) {s t : State} (hs : P s) (h : step s = .next t) : P t := by
  have hstruck : P (s.setAgenda s.agenda.tail) := hagenda s _ hs
  obtain ⟨-, rfl⟩ | ⟨-, -, i, -, hi⟩ | ⟨m, -, hm⟩ | ⟨-, rfl⟩ := step_cases h
  · exact hstruck
  · exact hexec i _ t hstruck hi
  · exact hhost m _ t hstruck hm
  · exact hreset _ hstruck

/-! ### The writes of a running cascade (43_cascade.md R142) -/

/-- A property that each of the writes a running cascade is made of keeps. -/
structure CascadeStable (P : State → Prop) : Prop where
  setBlk : ∀ s v, P s → P (s.setBlk v)
  setSeg : ∀ s v, P s → P (s.setSeg v)
  setSchedule : ∀ s g, P s → P (s.setSchedule (derive s.cfg.tables g))
  setOmem : ∀ s b v, P s → P (s.setOmem (writeCells s.omem (16 * b) (hexDigits v)))

theorem CascadeStable.cascSegment {P : State → Prop} (hP : CascadeStable P) {k : KeySel} {j : Nat} {s t : State}
    (hs : P s) (h : cascSegment k j s = .ok t) : P t := by
  obtain ⟨u, hu, rfl⟩ := cascSegment_ok.mp h
  obtain ⟨cs, -, rfl⟩ := packKey_ok.mp hu
  exact hP.setBlk _ _ (hP.setSchedule _ _ (hP.setSeg _ _ hs))

theorem CascadeStable.cascBlock {P : State → Prop} (hP : CascadeStable P) {b : Nat} {s t : State}
    (hs : P s) (h : cascBlock s b = .ok t) : P t := by
  obtain ⟨u, v, hpack, hkeys, hhex⟩ := cascBlock_ok.mp h
  obtain ⟨cs, -, rfl⟩ := packPlain_ok.mp hpack
  obtain ⟨-, rfl⟩ := storeBlock_ok.mp hhex
  have hv : P v := foldlM_keeps (fun k _ _ _ hx hy => foldlM_keeps (fun j _ _ _ => hP.cascSegment) hx hy)
    (hP.setBlk _ _ hs) hkeys
  exact hP.setOmem _ _ _ hv

theorem CascadeStable.cascBlocks {P : State → Prop} (hP : CascadeStable P) {bs : List Nat} {s t : State}
    (hs : P s) (h : bs.foldlM Machine.cascBlock s = .ok t) : P t :=
  foldlM_keeps (fun _ _ _ _ => hP.cascBlock) hs h

/-! ### What a command leaves -/

/-- Everything the completion of a command can leave. -/
inductive ExecEffect (s : State) : Instr → State → Prop
  | nop : ExecEffect s .nop (finish s)
  | clr : ExecEffect s .clr (finish (clearRegisters s))
  | packd (idx : Nat) (v : Block) : ExecEffect s (.packd idx) (finish (s.setBlk v))
  | packk (k : KeySel) (idx : Nat) (v : Block) : ExecEffect s (.packk k idx) (finish (s.setSeg v))
  | ksched : ExecEffect s .ksched (finish (s.setSchedule (derive s.cfg.tables s.seg)))
  | encr : ExecEffect s .encr (finish (s.setBlk (encrypt s.cfg.tables s.blk s.rk)))
  | casc (u : State) : (List.range (ceil4 s.dlen.toNat)).foldlM cascBlock s = .ok u →
      ExecEffect s .casc (finish (u.setOlen (BitVec.ofNat 32 (16 * ceil4 s.dlen.toNat))))
  | hexo (idx : Nat) : idx < ceil4 s.cfg.maxd → ExecEffect s (.hexo idx)
      (finish ((s.setOmem (writeCells s.omem (16 * idx) (hexDigits s.blk))).setOlen (BitVec.ofNat 32 (16 * (idx + 1)))))

theorem exec_effect {i : Instr} {s t : State} (h : exec i s = .next t) : ExecEffect s i t := by
  cases i with
  | nop => cases exec_nop_next.mp h; exact .nop
  | clr => cases exec_clr_next.mp h; exact .clr
  | packd n => obtain ⟨cs, -, rfl⟩ := exec_packd_next.mp h; exact .packd n _
  | packk k n => obtain ⟨cs, -, rfl⟩ := exec_packk_next.mp h; exact .packk k n _
  | ksched => cases exec_ksched_next.mp h; exact .ksched
  | encr => cases exec_encr_next.mp h; exact .encr
  | casc => obtain ⟨u, hu, rfl⟩ := exec_casc_next.mp h; exact .casc u hu
  | hexo n => obtain ⟨hn, rfl⟩ := exec_hexo_next.mp h; exact .hexo n hn

/-- A command but `CLR` changes at most `BLK`, `SEG`, the round key file, `OMEM`, `OLEN` and the completion flags. -/
theorem exec_only {i : Instr} {s t : State} (hi : i ≠ .clr) (h : exec i s = .next t) : t = finish { s with
    blk := t.blk
    seg := t.seg
    rk := t.rk
    rkv := t.rkv
    omem := t.omem
    olen := t.olen } := by
  cases exec_effect h with
  | clr => exact absurd rfl hi
  | casc u hu =>
    rw [(cascBlocks_only hu).same]
    rfl
  | _ => rfl

theorem exec_keeps_cfg {i : Instr} {s t : State} (h : exec i s = .next t) : t.cfg = s.cfg := by
  cases exec_effect h with
  | casc u hu => exact (cascBlocks_only hu).cfg
  | _ => rfl

/-! ### What a host move leaves -/

/-- The host writes neither the configuration nor the round key file nor the output (20_memory.md R54, R56). -/
structure HostKeeps (s t : State) : Prop where
  cfg : t.cfg = s.cfg
  rk : t.rk = s.rk
  rkv : t.rkv = s.rkv
  omem : t.omem = s.omem
  olen : t.olen = s.olen

theorem hostMove_keeps {m : HostMove} {s t : State} (h : hostMove m s = .ok t) : HostKeeps s t := by
  cases hostMove_effect h <;> exact ⟨by simp, by simp, by simp, by simp, by simp⟩

/-- Settles O14: the configuration is written by no command, no host move and no reset, and `CAP` reads nothing else. -/
theorem stepKeepsConfiguration : Obligations.StepKeepsConfiguration := by
  unfold Obligations.StepKeepsConfiguration
  intro s t h
  have hcfg : t.cfg = s.cfg := step_keeps (P := fun x => x.cfg = s.cfg) (fun _ _ hx => hx)
    (fun _ _ _ hx hi => (exec_keeps_cfg hi).trans hx) (fun _ _ _ hx hm => (hostMove_keeps hm).cfg.trans hx)
    (fun _ hx => hx) rfl h
  exact ⟨hcfg, by rw [regValue, regValue, hcfg]⟩

/-! ### The round key file (10_state.md R23) -/

theorem ScheduleGenuine.congr {s t : State} (hcfg : t.cfg = s.cfg) (hrk : t.rk = s.rk) (hrkv : t.rkv = s.rkv)
    (h : ScheduleGenuine s) : ScheduleGenuine t := by
  rw [ScheduleGenuine, hcfg, hrk, hrkv]
  exact h

theorem HostKeeps.scheduleGenuine {s t : State} (h : HostKeeps s t) (hs : ScheduleGenuine s) : ScheduleGenuine t :=
  hs.congr h.cfg h.rk h.rkv

theorem scheduleGenuine_of_rkv_false {s : State} (h : s.rkv = false) : ScheduleGenuine s :=
  fun hrkv => absurd (h.symm.trans hrkv) (by decide)

theorem scheduleGenuine_setSchedule (s : State) (g : Block) :
    ScheduleGenuine (s.setSchedule (derive s.cfg.tables g)) := fun _ => ⟨g, rfl⟩

theorem cascadeStable_scheduleGenuine : CascadeStable ScheduleGenuine where
  setBlk _ _ := .congr rfl rfl rfl
  setSeg _ _ := .congr rfl rfl rfl
  setSchedule s g _ := scheduleGenuine_setSchedule s g
  setOmem _ _ _ := .congr rfl rfl rfl

theorem exec_keeps_scheduleGenuine {i : Instr} {s t : State} (hs : ScheduleGenuine s) (h : exec i s = .next t) :
    ScheduleGenuine t := by
  cases exec_effect h with
  | clr => exact scheduleGenuine_of_rkv_false rfl
  | ksched => exact (scheduleGenuine_setSchedule s s.seg).congr rfl rfl rfl
  | casc u hu => exact (cascadeStable_scheduleGenuine.cascBlocks hs hu).congr rfl rfl rfl
  | _ => exact hs.congr rfl rfl rfl

/-- Settles O12: whatever sets `RKV` has just written a schedule into `RK`, and whatever else writes `RK` clears it. -/
theorem stepKeepsScheduleGenuine : Obligations.StepKeepsScheduleGenuine := by
  unfold Obligations.StepKeepsScheduleGenuine
  intro s t
  exact step_keeps (fun _ _ => .congr rfl rfl rfl) (fun _ _ _ => exec_keeps_scheduleGenuine)
    (fun _ _ _ hx hm => (hostMove_keeps hm).scheduleGenuine hx)
    (fun _ _ => scheduleGenuine_of_rkv_false rfl)

/-! ### The output buffer (44_hexencoder.md R156) -/

theorem OutputDigits.congr {s t : State} (homem : t.omem = s.omem) (h : OutputDigits s) : OutputDigits t := by
  rw [OutputDigits, homem]
  exact h

theorem outputDigits_writeCells {s : State} (h : OutputDigits s) (i : Nat) (v : Block) :
    OutputDigits (s.setOmem (writeCells s.omem i (hexDigits v))) := by
  intro p hp
  obtain hold | ⟨-, -, hnew⟩ := mem_writeCells hp
  · exact h p hold
  · exact mem_hexDigits hnew

theorem cascadeStable_outputDigits : CascadeStable OutputDigits where
  setBlk _ _ := .congr rfl
  setSeg _ _ := .congr rfl
  setSchedule _ _ := .congr rfl
  setOmem _ b v h := outputDigits_writeCells h (16 * b) v

theorem exec_keeps_outputDigits {i : Instr} {s t : State} (hs : OutputDigits s) (h : exec i s = .next t) :
    OutputDigits t := by
  cases exec_effect h with
  | casc u hu => exact (cascadeStable_outputDigits.cascBlocks hs hu).congr rfl
  | hexo n => exact (outputDigits_writeCells hs (16 * n) s.blk).congr rfl
  | _ => exact hs.congr rfl

/-- A reset leaves `OMEM` or empties it (70_reset_and_hazards.md R191). -/
theorem outputDigits_resetEngine {s : State} (h : OutputDigits s) : OutputDigits (resetEngine s) := by
  intro p hp
  rw [resetEngine_eq_powerUp] at hp
  cases hb : s.busy with
  | true => simp [hb] at hp
  | false => exact h p (by simpa [hb] using hp)

/-- Settles O13: `HEXO` and the blocks of `CASC` write the digits of a block, and nothing else writes `OMEM`. -/
theorem stepKeepsOutputDigits : Obligations.StepKeepsOutputDigits := by
  unfold Obligations.StepKeepsOutputDigits
  intro s t
  exact step_keeps (fun _ _ => .congr rfl) (fun _ _ _ => exec_keeps_outputDigits)
    (fun _ _ _ hx hm => .congr (hostMove_keeps hm).omem hx) (fun _ => outputDigits_resetEngine)

/-! ### The engine invariant: completion -/

/-- `OLEN` counts whole blocks inside `OMEM` (10_state.md R28). -/
abbrev OlenLegal (s : State) : Prop := s.olen.toNat ≤ ocap s.cfg ∧ s.olen.toNat % 16 = 0

/-- A count of blocks inside `OMEM` is not wrapped by the register's 32 bits. -/
theorem toNat_blocks {c : Config} (hc : c.wf) {n : Nat} (hn : n ≤ ceil4 c.maxd) :
    (BitVec.ofNat 32 (16 * n)).toNat = 16 * n := by
  obtain ⟨⟨-, hd⟩, -⟩ := hc
  rw [ceil4] at hn
  exact Nat.mod_eq_of_lt (by omega)

theorem olenLegal_of_blocks {s : State} {n : Nat} (hc : s.cfg.wf) (hn : n ≤ ceil4 s.cfg.maxd)
    (h : s.olen = BitVec.ofNat 32 (16 * n)) : OlenLegal s := by
  rw [OlenLegal, h, toNat_blocks hc hn, ocap]
  omega

theorem exec_olenLegal {i : Instr} {s t : State} (hinv : EngineInv s) (h : exec i s = .next t) : OlenLegal t := by
  obtain ⟨hd, -, -, -, hold⟩ := hinv.lengths
  cases exec_effect h with
  | clr => exact ⟨Nat.zero_le _, rfl⟩
  | hexo n hn => exact olenLegal_of_blocks hinv.config hn rfl
  | casc u hu =>
    have hcfg : u.cfg = s.cfg := (cascBlocks_only hu).cfg
    refine olenLegal_of_blocks (hcfg ▸ hinv.config) ?_ rfl
    rw [finish_cfg, State.setOlen_cfg, hcfg, ceil4, ceil4]
    omega
  | _ => exact hold

theorem exec_omem_canonical {i : Instr} {s t : State} (hc : Memory.canonical (ocap s.cfg) s.omem)
    (h : exec i s = .next t) : Memory.canonical (ocap t.cfg) t.omem := by
  cases exec_effect h with
  | casc u hu =>
    have hblocks : Memory.canonical (ocap u.cfg) u.omem := cascBlocks_canonical hu hc
    exact hblocks
  | hexo n hn =>
    refine writeCells_canonical _ hc ?_
    rw [hexDigits_length, finish_cfg, State.setOlen_cfg, State.setOmem_cfg, ocap]
    omega
  | _ => exact hc

theorem latchAccepted_of_idle {s : State} (h : s.busy = false) : LatchAccepted s :=
  fun hb => absurd (h.symm.trans hb) (by decide)

/-- The lengths are 0 and no error is pending: what `CLR` and reset leave is legal whatever they found. -/
theorem lengthsLegal_clearRegisters (s : State) : LengthsLegal (clearRegisters s) :=
  ⟨Nat.zero_le _, Nat.zero_le _, Nat.zero_le _, Nat.zero_le _, Nat.zero_le _, rfl⟩

theorem EngineInv.exec {i : Instr} {s t : State} (hinv : EngineInv s) (h : exec i s = .next t) : EngineInv t := by
  obtain ⟨hdmem, hk1, hk2, hk3, homem⟩ := hinv.memory
  have hcanonical := exec_omem_canonical homem h
  have hidle : t.busy = false := (exec_next_finished h).1
  by_cases hclr : i = .clr
  · subst hclr
    cases exec_clr_next.mp h
    exact ⟨hinv.config, hinv.memory, lengthsLegal_clearRegisters s, ⟨by simp, by simp⟩, latchAccepted_of_idle hidle⟩
  · obtain ⟨hd, h1, h2, h3, -⟩ := hinv.lengths
    have holen := exec_olenLegal hinv h
    obtain ⟨-, herr⟩ := hinv.flags
    rw [exec_only hclr h] at hcanonical holen ⊢
    exact ⟨hinv.config, ⟨hdmem, hk1, hk2, hk3, hcanonical⟩, ⟨hd, h1, h2, h3, holen⟩, ⟨by simp, herr⟩,
      latchAccepted_of_idle rfl⟩

/-! ### The engine invariant: host moves -/

theorem MoveEffect.memory_wf {s t : State} (h : MoveEffect s t) (hs : Memory.wf s) : Memory.wf t := by
  obtain ⟨hdmem, hk1, hk2, hk3, homem⟩ := hs
  cases h with
  | wroteDmem i v _ hi => exact ⟨writeCell_canonical v hdmem hi, hk1, hk2, hk3, homem⟩
  | wroteKmem k i v _ hi =>
    cases k with
    | key1 => exact ⟨hdmem, writeCell_canonical v hk1 hi, hk2, hk3, homem⟩
    | key2 => exact ⟨hdmem, hk1, writeCell_canonical v hk2 hi, hk3, homem⟩
    | key3 => exact ⟨hdmem, hk1, hk2, writeCell_canonical v hk3 hi, homem⟩
  | _ => simpa [Memory.wf] using ⟨hdmem, hk1, hk2, hk3, homem⟩

/-- A length that passed its check fits the register. -/
theorem toNat_setWidth_le {v : BitVec 64} {cap : Nat} (h : v.toNat ≤ cap) : (v.setWidth 32).toNat ≤ cap := by
  rw [BitVec.toNat_setWidth]
  exact (Nat.mod_le _ _).trans h

theorem MoveEffect.lengthsLegal {s t : State} (h : MoveEffect s t) (hs : LengthsLegal s) : LengthsLegal t := by
  obtain ⟨hd, h1, h2, h3, holen⟩ := hs
  cases h with
  | wroteDlen v _ hv => exact ⟨toNat_setWidth_le hv, h1, h2, h3, holen⟩
  | wroteKlen k v _ hv =>
    cases k with
    | key1 => exact ⟨hd, toNat_setWidth_le hv, h2, h3, holen⟩
    | key2 => exact ⟨hd, h1, toNat_setWidth_le hv, h3, holen⟩
    | key3 => exact ⟨hd, h1, h2, toNat_setWidth_le hv, holen⟩
  | _ => simpa [LengthsLegal] using ⟨hd, h1, h2, h3, holen⟩

/-- An error that is raised leaves `ERR = 1` with a code that is not 0 (10_state.md R25). -/
theorem flagsConsistent_raiseError {s : State} {c : ErrCode} (hc : c ≠ .none) (hs : FlagsConsistent s) :
    FlagsConsistent (raiseError c s) := by
  obtain ⟨hbusy, herr⟩ := hs
  refine ⟨by simpa using hbusy, ?_⟩
  cases he : s.err <;> simp_all

theorem MoveEffect.flagsConsistent {s t : State} (h : MoveEffect s t) (hs : FlagsConsistent s) : FlagsConsistent t := by
  cases h with
  | raised c hc => exact flagsConsistent_raiseError hc hs
  | answeredError => exact flagsConsistent_raiseError (by decide) hs
  | accepted => exact ⟨by simp, hs.2⟩
  | _ => simpa [FlagsConsistent] using hs

theorem LatchAccepted.congr {s t : State} (hbusy : t.busy = s.busy) (hcmdl : t.cmdl = s.cmdl) (hrkv : t.rkv = s.rkv)
    (hcfg : t.cfg = s.cfg) (h : LatchAccepted s) : LatchAccepted t := by
  simp only [LatchAccepted, hbusy, hcmdl, issueError_congr hrkv hcfg]
  exact h

theorem MoveEffect.latchAccepted {s t : State} (h : MoveEffect s t) (hs : LatchAccepted s) : LatchAccepted t := by
  cases h with
  | accepted v i _ hdecode _ hpre =>
    exact fun _ => ⟨i, decode_latched hdecode, (issueError_congr rfl rfl i).trans hpre⟩
  | _ => exact hs.congr (by simp) (by simp) (by simp) (by simp)

theorem EngineInv.hostMove {m : HostMove} {s t : State} (hinv : EngineInv s) (h : hostMove m s = .ok t) :
    EngineInv t := by
  have heffect := hostMove_effect h
  exact ⟨(hostMove_keeps h).cfg ▸ hinv.config, heffect.memory_wf hinv.memory, heffect.lengthsLegal hinv.lengths,
    heffect.flagsConsistent hinv.flags, heffect.latchAccepted hinv.latch⟩

/-! ### The engine invariant: reset and any step -/

theorem EngineInv.setAgenda {s : State} (hinv : EngineInv s) (ts : List Turn) : EngineInv (s.setAgenda ts) :=
  ⟨hinv.config, hinv.memory, hinv.lengths, hinv.flags, hinv.latch.congr rfl rfl rfl rfl⟩

theorem canonical_nil {w : Nat} (cap : Nat) : Memory.canonical cap ([] : Cells w) := ⟨.nil, by simp⟩

theorem EngineInv.resetEngine {s : State} (hinv : EngineInv s) : EngineInv (resetEngine s) := by
  obtain ⟨hdmem, hk1, hk2, hk3, homem⟩ := hinv.memory
  have hcanonical : Memory.canonical (ocap s.cfg) (if s.busy then [] else s.omem) := by
    split
    · exact canonical_nil _
    · exact homem
  exact ⟨hinv.config, ⟨hdmem, hk1, hk2, hk3, hcanonical⟩, lengthsLegal_clearRegisters s,
    ⟨by simp [Machine.resetEngine], by simp [Machine.resetEngine]⟩, latchAccepted_of_idle rfl⟩

/-- Settles O11: completion (`EngineInv.exec`), the effects of a host move (`EngineInv.hostMove`) and reset each keep
the invariant. -/
theorem stepKeepsInvariant : Obligations.StepKeepsInvariant := by
  unfold Obligations.StepKeepsInvariant
  intro s t
  exact step_keeps (fun _ ts hx => hx.setAgenda ts) (fun _ _ _ hx => hx.exec) (fun _ _ _ hx => hx.hostMove)
    (fun _ hx => hx.resetEngine)

theorem engineInv_powerUp {c : Config} (hc : c.wf) : EngineInv (State.powerUp c) :=
  ⟨hc, ⟨canonical_nil _, canonical_nil _, canonical_nil _, canonical_nil _, canonical_nil _⟩,
    lengthsLegal_clearRegisters (State.powerUp c), ⟨by simp [State.powerUp], by simp [State.powerUp]⟩,
    latchAccepted_of_idle rfl⟩

theorem defaultConfig_wf : defaultConfig.wf := by decide

/-- Settles O10: at power-up every buffer is empty, every length 0 and every flag clear. -/
theorem invariantsAtReset : Obligations.InvariantsAtReset := by
  unfold Obligations.InvariantsAtReset
  exact ⟨fun c => engineInv_powerUp, engineInv_powerUp defaultConfig_wf,
    fun c => ⟨scheduleGenuine_of_rkv_false rfl, fun p hp => absurd hp List.not_mem_nil⟩⟩

end Sys2Proof.Machine

/-! PROOFS. What each kind of step does (10_state.md R22, R24, R34; 20_memory.md R57, R58, R63; 60_exceptions.md R178,
R181): the turns of an agenda, what a command leaves unchanged, the flags, the sticky error, command issue, and the
idle latch. -/
namespace Sys2Proof.Machine

/-! ### Turns (20_memory.md R58, R63) -/

/-- Settles O6: `step_of_completesNext` at an empty agenda and at one that begins with the engine's turn. -/
theorem stepRunsLatchedCommand : Obligations.StepRunsLatchedCommand := by
  unfold Obligations.StepRunsLatchedCommand
  refine fun s i ts hb hd => ⟨fun ha => ?_, fun ha => ?_⟩
  · have hagenda : s.setAgenda [] = s := by rw [State.setAgenda, ← ha]
    rw [step_of_completesNext ⟨hb, .inl ha, hd⟩, ha, List.tail_nil, hagenda]
  · rw [step_of_completesNext ⟨hb, .inr (by rw [ha]; rfl), hd⟩, ha, List.tail_cons, State.setAgenda]

theorem cmdl_placeCommand (s : State) (w : Nat) : (placeCommand 32 w s).cmdl = BitVec.ofNat 32 w := by
  apply BitVec.eq_of_toNat_eq
  simp only [placeCommand, State.setAgenda_cmdl, accept_cmdl, BitVec.toNat_setWidth, BitVec.toNat_ofNat]
  omega

theorem decode_of_decodeTableWord {n w : Nat} {i : Instr} (h : decodeTableWord n w = some i) :
    decode (BitVec.ofNat 64 (w % 2 ^ n)) = .ok i := by
  rw [decodeTableWord] at h
  cases hd : decode (BitVec.ofNat 64 (w % 2 ^ n)) with
  | ok j => simpa [hd] using h
  | error c => simp [hd] at h

/-- Settles O7: the placed word stands in the latch with the engine's turn first on the agenda, so the next step
completes it. -/
theorem placedWordRunsNext : Obligations.PlacedWordRunsNext := by
  unfold Obligations.PlacedWordRunsNext
  intro s w i hi
  have hd : decode (cmdValue (placeCommand 32 w s).cmdl) = .ok i := decode_latched (decode_of_decodeTableWord hi)
  rw [State.withFetchWord, step_of_completesNext ⟨rfl, .inr rfl, hd⟩, ← cmdl_placeCommand s]
  rfl

/-- With no command in flight the engine's turn is only struck off (60_exceptions.md R181). -/
theorem engineTurn_of_idle {s : State} (h : s.busy = false) : engineTurn s = .next s := by
  simp [engineTurn, h]

/-- Settles O8: each kind of turn at the head of the agenda, and the empty agenda. -/
theorem turnsTakenInOrder : Obligations.TurnsTakenInOrder := by
  unfold Obligations.TurnsTakenInOrder
  refine fun s ts => ⟨fun m ha => ?_, fun ha => ?_, fun hb ha => ?_, fun hb ha => ?_⟩
  · rw [step, ha]; rfl
  · rw [step, ha]; rfl
  · rw [step, ha]
    exact engineTurn_of_idle hb
  · rw [step, ha]
    exact engineTurn_of_idle hb

/-! ### The frame of each command -/

/-- Only `PACKD`, `ENCR`, `CASC` and `CLR` write `BLK` (10_state.md R20). -/
theorem exec_keeps_blk {i : Instr} {s t : State} (hclr : i ≠ .clr) (hcasc : i ≠ .casc) (hencr : i ≠ .encr)
    (hpackd : ∀ n, i ≠ .packd n) (h : exec i s = .next t) : t.blk = s.blk := by
  cases exec_effect h with
  | clr => exact absurd rfl hclr
  | casc => exact absurd rfl hcasc
  | encr => exact absurd rfl hencr
  | packd n => exact absurd rfl (hpackd n)
  | _ => rfl

/-- Only `PACKK`, `CASC` and `CLR` write `SEG` (10_state.md R21). -/
theorem exec_keeps_seg {i : Instr} {s t : State} (hclr : i ≠ .clr) (hcasc : i ≠ .casc)
    (hpackk : ∀ k n, i ≠ .packk k n) (h : exec i s = .next t) : t.seg = s.seg := by
  cases exec_effect h with
  | clr => exact absurd rfl hclr
  | casc => exact absurd rfl hcasc
  | packk k n => exact absurd rfl (hpackk k n)
  | _ => rfl

/-- Only `KSCHED`, `CASC` and `CLR` write the round key file (10_state.md R22, R24). -/
theorem exec_keeps_schedule {i : Instr} {s t : State} (hclr : i ≠ .clr) (hcasc : i ≠ .casc) (hksched : i ≠ .ksched)
    (h : exec i s = .next t) : t.rk = s.rk ∧ t.rkv = s.rkv := by
  cases exec_effect h with
  | clr => exact absurd rfl hclr
  | casc => exact absurd rfl hcasc
  | ksched => exact absurd rfl hksched
  | _ => exact ⟨rfl, rfl⟩

/-- Only `HEXO`, `CASC` and `CLR` write `OLEN` (10_state.md R28). -/
theorem exec_keeps_olen {i : Instr} {s t : State} (hclr : i ≠ .clr) (hcasc : i ≠ .casc) (hhexo : ∀ n, i ≠ .hexo n)
    (h : exec i s = .next t) : t.olen = s.olen := by
  cases exec_effect h with
  | clr => exact absurd rfl hclr
  | casc => exact absurd rfl hcasc
  | hexo n => exact absurd rfl (hhexo n)
  | _ => rfl

/-- The blocks of a cascade write no cell above their own. -/
theorem cascBlocks_outside {n a : Nat} {s t : State} (h : (List.range n).foldlM cascBlock s = .ok t)
    (ha : 16 * n ≤ a) : readCell t.omem a = readCell s.omem a := by
  refine foldlM_keeps (P := fun x => readCell x.omem a = readCell s.omem a) (fun b hb u v hu hv => ?_) rfl h
  have hlt : b < n := List.mem_range.mp hb
  exact (cascBlock_outside hv (.inr (by omega))).trans hu

/-- The cells of `OMEM` that a command does not write. -/
theorem exec_keeps_cell {i : Instr} {s t : State} {a : Nat} (hcasc : i = .casc → 16 * ceil4 s.dlen.toNat ≤ a)
    (hhexo : ∀ n, i = .hexo n → a < 16 * n ∨ 16 * n + 16 ≤ a) (h : exec i s = .next t) :
    readCell t.omem a = readCell s.omem a := by
  cases exec_effect h with
  | casc u hu => exact cascBlocks_outside (t := u) hu (hcasc rfl)
  | hexo n => exact readCell_writeCells_outside _ _ _ (by rw [hexDigits_length]; exact hhexo n rfl)
  | _ => rfl

/-- The fields no command writes. -/
theorem exec_keeps_inputs {i : Instr} {s t : State} (h : exec i s = .next t) :
    t.cfg = s.cfg ∧ t.dmem = s.dmem ∧ t.k1mem = s.k1mem ∧ t.k2mem = s.k2mem ∧ t.k3mem = s.k3mem ∧
      t.cmdl = s.cmdl ∧ t.agenda = s.agenda ∧ t.reply = s.reply ∧ t.draws = s.draws := by
  cases exec_effect h with
  | casc u hu =>
    rw [(cascBlocks_only hu).same]
    exact ⟨rfl, rfl, rfl, rfl, rfl, rfl, rfl, rfl, rfl⟩
  | _ => exact ⟨rfl, rfl, rfl, rfl, rfl, rfl, rfl, rfl, rfl⟩

/-- Settles O31: one lemma for each register or buffer, by the commands that write it. -/
theorem commandFrame : Obligations.CommandFrame := by
  unfold Obligations.CommandFrame
  intro i s t h
  refine ⟨exec_keeps_inputs h, exec_next_finished h, fun hclr => ?_, fun hclr hcasc hencr hpackd =>
    exec_keeps_blk hclr hcasc hencr hpackd h, fun hclr hcasc hpackk => exec_keeps_seg hclr hcasc hpackk h,
    fun hclr hcasc hksched => exec_keeps_schedule hclr hcasc hksched h,
    fun hclr hcasc hhexo => exec_keeps_olen hclr hcasc hhexo h, fun a hcasc hhexo => exec_keeps_cell hcasc hhexo h⟩
  rw [exec_only hclr h]
  exact ⟨rfl, rfl, rfl, rfl, rfl, rfl⟩

/-! ### The round key file and its flag (10_state.md R22, R24) -/

/-- Settles O50: the host never writes the round keys, and of the commands only these three do. -/
theorem roundKeysWrittenOnlyByEngine : Obligations.RoundKeysWrittenOnlyByEngine := by
  unfold Obligations.RoundKeysWrittenOnlyByEngine
  intro s t h hrk
  obtain ⟨-, rfl⟩ | ⟨hb, hn, i, hd, hi⟩ | ⟨m, -, hm⟩ | ⟨hreset, -⟩ := step_cases h
  · exact absurd rfl hrk
  · by_contra hnone
    simp only [not_or] at hnone
    obtain ⟨hksched, hcasc, hclr, -⟩ := hnone
    refine hrk (exec_keeps_schedule (i := i) ?_ ?_ ?_ hi).1
    · rintro rfl; exact hclr ⟨hb, hn, hd⟩
    · rintro rfl; exact hcasc ⟨hb, hn, hd⟩
    · rintro rfl; exact hksched ⟨hb, hn, hd⟩
  · exact absurd (hostMove_keeps hm).rk hrk
  · exact .inr (.inr (.inr hreset))

/-- A flag that is as before cannot have changed. -/
theorem flag_unchanged {before after value : Bool} {p : Prop} (h : after = before) (hbefore : before = value)
    (hafter : after = !value) : p := by
  subst h
  simp [hbefore] at hafter

theorem cascadeStable_rkv : CascadeStable (fun s => s.rkv = true) where
  setBlk _ _ h := h
  setSeg _ _ h := h
  setSchedule _ _ _ := rfl
  setOmem _ _ _ h := h

/-- A key that is not provided is no work (43_cascade.md R144). -/
theorem cascKey_of_klen_zero {s : State} {k : KeySel} (h : klen s k = 0) : cascKey s k = .ok s := by
  have hnone : ceil4 (klen s k).toNat = 0 := by rw [h]; rfl
  rw [cascKey, hnone]
  rfl

/-- With no key the blocks of a cascade leave `RKV` (43_cascade.md R151). -/
theorem cascBlocks_rkv_of_no_key {bs : List Nat} {s t : State} (hkey : ∀ k, klen s k = 0)
    (h : bs.foldlM cascBlock s = .ok t) : t.rkv = s.rkv := by
  refine (foldlM_keeps (P := fun x => OnlyCascade s x ∧ x.rkv = s.rkv) (fun b _ x y hx hy => ?_)
    ⟨.refl s, rfl⟩ h).2
  obtain ⟨honly, hrkv⟩ := hx
  refine ⟨honly.trans (cascBlock_only hy), ?_⟩
  obtain ⟨u, v, hpack, hkeys, hhex⟩ := cascBlock_ok.mp hy
  have hu : ∀ k, klen u k = 0 := fun k => by rw [(honly.trans (packPlain_only hpack)).klen, hkey]
  obtain ⟨-, rfl⟩ := storeBlock_ok.mp hhex
  obtain ⟨cs, -, rfl⟩ := packPlain_ok.mp hpack
  have hv : v.rkv = s.rkv := (foldlM_keeps (P := fun z => (∀ k, klen z k = 0) ∧ z.rkv = s.rkv)
    (fun k _ a b ha hab => by
      rw [cascKey_of_klen_zero (ha.1 k)] at hab
      cases hab
      exact ha) ⟨hu, hrkv⟩ hkeys).2
  exact hv

/-- `RKV` is set only by `KSCHED` and by a `CASC` with a block and a segment (10_state.md R24). -/
theorem exec_sets_rkv {i : Instr} {s t : State} (h : exec i s = .next t) (hs : s.rkv = false) (ht : t.rkv = true) :
    i = .ksched ∨ i = .casc ∧ s.dlen ≠ 0 ∧ ∃ k, klen s k ≠ 0 := by
  cases exec_effect h with
  | ksched => exact .inl rfl
  | clr => cases ht
  | casc u hu =>
    refine .inr ⟨rfl, fun hd => ?_, ?_⟩
    · have hnone : ceil4 s.dlen.toNat = 0 := by rw [hd]; rfl
      rw [hnone] at hu
      cases hu
      exact flag_unchanged rfl hs ht
    · by_contra hkey
      exact flag_unchanged (cascBlocks_rkv_of_no_key (by simpa using hkey) hu) hs ht
  | _ => exact flag_unchanged rfl hs ht

/-- `RKV` is cleared only by `CLR` (10_state.md R24). -/
theorem exec_clears_rkv {i : Instr} {s t : State} (h : exec i s = .next t) (hs : s.rkv = true) (ht : t.rkv = false) :
    i = .clr := by
  cases exec_effect h with
  | clr => rfl
  | ksched => cases ht
  | casc u hu => exact flag_unchanged (cascadeStable_rkv.cascBlocks hs hu) rfl ht
  | _ => exact flag_unchanged rfl hs ht

/-! ### The other flags (10_state.md R24, R25) -/

theorem eq_zero_of_regOf_cmd {n : Nat} (h : regOf n = some .cmd) : n = 0x00 := by
  obtain hlow | ⟨i, -, hrk⟩ | hnone := regOf_cases n
  · have hmap : ∀ n ≤ 0x0A, regOf n = some .cmd → n = 0x00 := by decide
    exact hmap n hlow h
  · simp [hrk] at h
  · simp [hnone] at h

/-- `BUSY` and `DONE` are as before. -/
abbrev KeepsCompletion (s t : State) : Prop := t.busy = s.busy ∧ t.done = s.done

theorem raiseError_keepsCompletion (s : State) (c : ErrCode) : KeepsCompletion s (raiseError c s) :=
  ⟨raiseError_busy s c, raiseError_done s c⟩

theorem writeReg_keepsCompletion {s : State} {v : BitVec 64} {r : RegName} (hr : r ≠ .cmd) :
    KeepsCompletion s (writeReg r v s) := by
  cases r with
  | cmd => exact absurd rfl hr
  | dlen | klen k =>
    simp only [writeReg]
    split
    · exact ⟨by simp, by simp⟩
    · exact raiseError_keepsCompletion s .len
  | blk | seg => exact ⟨rfl, rfl⟩
  | status | errcode | olen | cap | rk i => exact raiseError_keepsCompletion s .addr

theorem hostRegWrite_keepsCompletion {s : State} {n : Nat} {v : BitVec 64} (hn : n ≠ 0x00) :
    KeepsCompletion s (hostRegWrite n v s) := by
  cases hb : s.busy with
  | true =>
    rw [hostRegWrite_of_busy hb]
    exact raiseError_keepsCompletion s .busy
  | false =>
    cases hr : regOf n with
    | none =>
      rw [hostRegWrite_of_unmapped hb hr]
      exact raiseError_keepsCompletion s .addr
    | some r =>
      rw [hostRegWrite_of_mapped hb hr]
      exact writeReg_keepsCompletion fun hcmd => hn (eq_zero_of_regOf_cmd (hcmd ▸ hr))

theorem hostRegRead_keepsCompletion (s : State) (n : Nat) : KeepsCompletion s (hostRegRead n s) := by
  unfold hostRegRead
  split
  · exact raiseError_keepsCompletion s .addr
  · split <;> exact ⟨rfl, rfl⟩

theorem hostMemRead_keepsCompletion {s t : State} {S : Space} {i : Nat} (h : hostMemRead S i s = .ok t) :
    KeepsCompletion s t := by
  by_cases hi : i < spaceCap s.cfg S
  · cases hread : readSpace s S i with
    | none => simp [hostMemRead_of_unwritten hi hread] at h
    | some v =>
      rw [hostMemRead_of_written hi hread] at h
      cases h
      split <;> exact ⟨rfl, rfl⟩
  · rw [hostMemRead_of_outside (Nat.not_lt.mp hi)] at h
    cases h
    exact raiseError_keepsCompletion s .addr

theorem hostMemWrite_keepsCompletion (s : State) (S : Space) (i : Nat) (v : CharCell) :
    KeepsCompletion s (hostMemWrite S i v s) := by
  cases hb : s.busy with
  | true =>
    rw [hostMemWrite_of_busy hb]
    exact raiseError_keepsCompletion s .busy
  | false =>
    by_cases hS : S = .omem ∨ spaceCap s.cfg S ≤ i
    · rw [hostMemWrite_of_refused hb hS]
      exact raiseError_keepsCompletion s .addr
    · obtain ⟨hS, hi⟩ := not_or.mp hS
      rw [hostMemWrite_frame hb hS (Nat.not_le.mp hi)]
      exact ⟨rfl, rfl⟩

/-- Of the host's moves only an accepted write of `CMD` touches `BUSY` and `DONE` (10_state.md R24). -/
theorem hostMove_completion_flags {m : HostMove} {s t : State} (h : hostMove m s = .ok t) :
    KeepsCompletion s t ∨ ((∃ v, m = .regWrite 0x00 v) ∧ t.busy = true ∧ t.done = false) := by
  cases m with
  | regRead n => cases h; exact .inl (hostRegRead_keepsCompletion s n)
  | memRead S i => exact .inl (hostMemRead_keepsCompletion h)
  | memWrite S i v => cases h; exact .inl (hostMemWrite_keepsCompletion s S i v)
  | regWrite n v =>
    by_cases hn : n = 0x00
    · subst hn
      cases hostMove_effect h with
      | accepted => exact .inr ⟨⟨v, rfl⟩, rfl, rfl⟩
      | _ => exact .inl ⟨by simp, by simp⟩
    · cases h
      exact .inl (hostRegWrite_keepsCompletion hn)

/-- A pending error outlives every host move (60_exceptions.md R172, R178). -/
theorem hostMove_sticky {m : HostMove} {s t : State} (h : hostMove m s = .ok t) (hs : s.err = true) :
    t.err = true ∧ t.errcode = s.errcode := by
  cases hostMove_effect h <;> exact ⟨by simp [hs], by simp [hs]⟩

theorem moveError_setAgenda (s : State) (ts : List Turn) (m : HostMove) :
    moveError (s.setAgenda ts) m = moveError s m := by
  cases m with
  | regWrite n v =>
    have hpre := issueError_congr (State.setAgenda_rkv s ts) (State.setAgenda_cfg s ts)
    simp [moveError, issueFailure, hpre]
  | regRead n | memRead S i | memWrite S i v => rfl

/-- An error that a host move sets is that of its failing check (10_state.md R24, 60_exceptions.md R174). -/
theorem hostMove_sets_err {m : HostMove} {s t : State} (h : hostMove m s = .ok t) (hs : s.err = false)
    (ht : t.err = true) : ∃ c, moveError s m = some c ∧ t.errcode = c := by
  cases hc : moveError s m with
  | none =>
    rw [(hostMove_keeps_error hc h).1, hs] at ht
    cases ht
  | some c =>
    rw [hostMove_of_moveError_some hc] at h
    cases h
    exact ⟨c, rfl, by simp [hs]⟩

/-- The table of the flags, one field for each column of 10_state.md R24: each change of a flag between `s` and `t`
has one of the events listed for it. -/
structure FlagsFollowTable (s t : State) : Prop where
  busySet : s.busy = false → t.busy = true → ∃ v, s.agenda.head? = some (.host (.regWrite 0x00 v)) ∧ t.done = false
  busyCleared : s.busy = true → t.busy = false → (∃ i, completesNext s i ∧ t.done = true) ∨ s.agenda.head? = some .reset
  doneSet : s.done = false → t.done = true → ∃ i, completesNext s i
  doneCleared : s.done = true → t.done = false →
    (t.busy = true ∧ ∃ v, s.agenda.head? = some (.host (.regWrite 0x00 v))) ∨ s.agenda.head? = some .reset
  errSet : s.err = false → t.err = true →
    ∃ m c, s.agenda.head? = some (.host m) ∧ moveError s m = some c ∧ t.errcode = c
  errCleared : s.err = true → t.err = false → completesNext s .clr ∨ s.agenda.head? = some .reset
  rkvSet : s.rkv = false → t.rkv = true → completesNext s .ksched ∨
    (completesNext s .casc ∧ s.dlen ≠ 0 ∧ ∃ k, klen s k ≠ 0)
  rkvCleared : s.rkv = true → t.rkv = false → completesNext s .clr ∨ s.agenda.head? = some .reset

theorem flagsFollowTable_of_idle (s : State) (ts : List Turn) : FlagsFollowTable s (s.setAgenda ts) where
  busySet := flag_unchanged rfl
  busyCleared := flag_unchanged rfl
  doneSet := flag_unchanged rfl
  doneCleared := flag_unchanged rfl
  errSet := flag_unchanged rfl
  errCleared := flag_unchanged rfl
  rkvSet := flag_unchanged rfl
  rkvCleared := flag_unchanged rfl

theorem flagsFollowTable_of_exec {s t : State} {i : Instr} {ts : List Turn} (hc : completesNext s i)
    (h : exec i (s.setAgenda ts) = .next t) : FlagsFollowTable s t := by
  obtain ⟨hbusy, hdone⟩ := exec_next_finished h
  have herr : i ≠ .clr → t.err = s.err := fun hi => by rw [exec_only hi h]; rfl
  have hclr (hne : t.err ≠ s.err) : i = .clr := by_contra fun hi => hne (herr hi)
  refine ⟨fun _ ht => flag_unchanged hbusy rfl ht, fun _ _ => .inl ⟨i, hc, hdone⟩, fun _ _ => ⟨i, hc⟩,
    fun _ ht => flag_unchanged hdone rfl ht, fun hs ht => ?_, fun hs ht => ?_, fun hs ht => ?_, fun hs ht => ?_⟩
  · obtain rfl := hclr (by simp [hs, ht])
    cases exec_clr_next.mp h
    cases ht
  · obtain rfl := hclr (by simp [hs, ht])
    exact .inl hc
  · obtain rfl | ⟨rfl, hd, k, hk⟩ := exec_sets_rkv h hs ht
    · exact .inl hc
    · exact .inr ⟨hc, hd, k, by rwa [klen_congr s (t := s.setAgenda ts) rfl rfl rfl] at hk⟩
  · obtain rfl := exec_clears_rkv h hs ht
    exact .inl hc

theorem flagsFollowTable_of_hostMove {s t : State} {m : HostMove} {ts : List Turn}
    (hm : s.agenda.head? = some (.host m)) (h : hostMove m (s.setAgenda ts) = .ok t) : FlagsFollowTable s t := by
  have hrkv : t.rkv = s.rkv := (hostMove_keeps h).rkv
  have hcompletion : KeepsCompletion s t ∨
      ((∃ v, s.agenda.head? = some (.host (.regWrite 0x00 v))) ∧ t.busy = true ∧ t.done = false) := by
    obtain hkept | ⟨⟨v, rfl⟩, hflags⟩ := hostMove_completion_flags h
    · exact .inl hkept
    · exact .inr ⟨⟨v, hm⟩, hflags⟩
  refine ⟨fun hs ht => ?_, fun hs ht => ?_, fun hs ht => ?_, fun hs ht => ?_, fun hs ht => ?_, fun hs ht => ?_,
    flag_unchanged hrkv, flag_unchanged hrkv⟩
  · obtain ⟨hkept, -⟩ | ⟨⟨v, hv⟩, -, hdone⟩ := hcompletion
    · exact flag_unchanged hkept hs ht
    · exact ⟨v, hv, hdone⟩
  · obtain ⟨hkept, -⟩ | ⟨-, hbusy, -⟩ := hcompletion
    · exact flag_unchanged hkept hs ht
    · exact flag_unchanged hbusy rfl ht
  · obtain ⟨-, hkept⟩ | ⟨-, -, hdone⟩ := hcompletion
    · exact flag_unchanged hkept hs ht
    · exact flag_unchanged hdone rfl ht
  · obtain ⟨-, hkept⟩ | ⟨hv, hbusy, -⟩ := hcompletion
    · exact flag_unchanged hkept hs ht
    · exact .inl ⟨hbusy, hv⟩
  · obtain ⟨c, hc, hcode⟩ := hostMove_sets_err h hs ht
    exact ⟨m, c, hm, by rwa [moveError_setAgenda] at hc, hcode⟩
  · exact flag_unchanged (hostMove_sticky h hs).1 rfl ht

theorem flagsFollowTable_of_reset {s : State} {ts : List Turn} (hreset : s.agenda.head? = some .reset) :
    FlagsFollowTable s (resetEngine (s.setAgenda ts)) where
  busySet _ ht := by cases ht
  busyCleared _ _ := .inr hreset
  doneSet _ ht := by cases ht
  doneCleared _ _ := .inr hreset
  errSet _ ht := by cases ht
  errCleared _ _ := .inr hreset
  rkvSet _ ht := by cases ht
  rkvCleared _ _ := .inr hreset

/-- Settles O48: the table of events for each of the four kinds of turn. -/
theorem flagsChangeOnlyAsListed : Obligations.FlagsChangeOnlyAsListed := by
  unfold Obligations.FlagsChangeOnlyAsListed
  intro s t h
  have htable : FlagsFollowTable s t := by
    obtain ⟨-, rfl⟩ | ⟨hb, hn, i, hd, hi⟩ | ⟨m, hm, hmove⟩ | ⟨hreset, rfl⟩ := step_cases h
    · exact flagsFollowTable_of_idle s _
    · exact flagsFollowTable_of_exec ⟨hb, hn, hd⟩ hi
    · exact flagsFollowTable_of_hostMove hm hmove
    · exact flagsFollowTable_of_reset hreset
  exact ⟨htable.busySet, htable.busyCleared, htable.doneSet, htable.doneCleared, htable.errSet, htable.errCleared,
    htable.rkvSet, htable.rkvCleared⟩

/-! ### The sticky error (60_exceptions.md R178) -/

/-- With an error pending the host gets no command accepted but `CLR` (20_memory.md R57 step 1). -/
theorem hostMove_accepts_only_clr {m : HostMove} {s t : State} (h : hostMove m s = .ok t) (herr : s.err = true) :
    s.busy = false → t.busy = true → decode (cmdValue t.cmdl) = .ok .clr := by
  intro hb ht
  cases hostMove_effect h with
  | accepted v i _ hdecode hallowed =>
    obtain hno | rfl := hallowed
    · simp [herr] at hno
    · exact decode_latched hdecode
  | _ => simp [hb] at ht

/-- Settles O49: of the four kinds of turn only a completed `CLR` and a reset change a pending error. -/
theorem firstErrorIsSticky : Obligations.FirstErrorIsSticky := by
  unfold Obligations.FirstErrorIsSticky
  intro s t herr h
  obtain ⟨hb, rfl⟩ | ⟨hb, hn, i, hd, hi⟩ | ⟨m, -, hm⟩ | ⟨hreset, rfl⟩ := step_cases h
  · exact ⟨.inl ⟨herr, rfl⟩, fun _ ht => flag_unchanged hb rfl ht⟩
  · refine ⟨?_, fun hidle => flag_unchanged hb rfl hidle⟩
    by_cases hclr : i = .clr
    · subst hclr
      cases exec_clr_next.mp hi
      exact .inr ⟨rfl, rfl, .inl ⟨hb, hn, hd⟩⟩
    · rw [exec_only hclr hi]
      exact .inl ⟨herr, rfl⟩
  · have hsticky := hostMove_sticky hm herr
    have hclr := hostMove_accepts_only_clr hm herr
    exact ⟨.inl hsticky, hclr⟩
  · exact ⟨.inr ⟨rfl, rfl, .inr hreset⟩, fun _ ht => by cases ht⟩

/-! ### Acceptance and completion (20_memory.md R57, R58) -/

/-- Settles O52: the latch of an engine under the invariant decoded and met its precondition. -/
theorem acceptedCommandCompletes : Obligations.AcceptedCommandCompletes := by
  unfold Obligations.AcceptedCommandCompletes
  intro s hinv hb hn
  obtain ⟨i, hdecode, hpre⟩ := hinv.latch hb
  exact step_finishes_or_unwritten hinv.lengths hpre ⟨hb, hn, hdecode⟩

theorem issue_of_decode_error {s : State} {v : BitVec 64} {c : ErrCode} (herr : s.err = false)
    (hd : decode v = .error c) : issue v s = raiseError c s := by
  simp [issue, hd, herr]

theorem issue_of_precondition {s : State} {v : BitVec 64} {i : Instr} {c : ErrCode} (herr : s.err = false)
    (hd : decode v = .ok i) (hpre : issueError s i = some c) : issue v s = raiseError c s := by
  simp [issue, hd, herr, hpre]

theorem issue_of_accepted {s : State} {v : BitVec 64} {i : Instr} (herr : s.err = false)
    (hd : decode v = .ok i) (hpre : issueError s i = none) : issue v s = accept v s := by
  simp [issue, hd, herr, hpre]

theorem issue_clr_of_err {s : State} {v : BitVec 64} (herr : s.err = true) (hd : decode v = .ok .clr) :
    issue v s = accept v s := by
  simp [issue, hd, herr]

theorem issue_dropped_of_err {s : State} {v : BitVec 64} (herr : s.err = true) (hd : decode v ≠ .ok .clr) :
    issue v s = s := by
  unfold issue
  split
  · exact if_pos herr
  · next i hi =>
    rw [if_pos herr, if_neg]
    rintro rfl
    exact hd hi

/-- Only `ENCR` and `HEXO` have a precondition (20_memory.md R57 step 3). -/
theorem issueError_none {s : State} {i : Instr} (hencr : i = .encr → s.rkv = true)
    (hhexo : ∀ idx, i = .hexo idx → idx < ceil4 s.cfg.maxd) : issueError s i = none := by
  cases i with
  | encr => exact if_pos (hencr rfl)
  | hexo idx => exact if_pos (hhexo idx rfl)
  | nop | clr | packd idx | packk k idx | ksched | casc => rfl

theorem issueError_encr {s : State} (h : s.rkv = false) : issueError s .encr = some .nokey := by
  simp [issueError, h]

theorem issueError_hexo {s : State} {idx : Nat} (h : ceil4 s.cfg.maxd ≤ idx) :
    issueError s (.hexo idx) = some .range := if_neg (Nat.not_lt.mpr h)

theorem accept_eq (v : BitVec 64) (s : State) :
    accept v s = { s with cmdl := v.extractLsb' 0 32, busy := true, done := false } := by
  rw [accept, setWidth_eq_low]

/-- Settles O43: the checks of `issue` in their order; what is accepted is `accept_eq`, what is refused
`raiseError`. -/
theorem commandIssue : Obligations.CommandIssue := by
  unfold Obligations.CommandIssue
  intro s v hb
  rw [hostRegWrite_of_mapped (r := .cmd) hb rfl, writeReg]
  refine ⟨issue_dropped_of_err, fun herr hd => ?_, fun herr c hd => ?_, fun herr hd hrkv => ?_,
    fun herr idx hd hidx => ?_, fun herr i hd hencr hhexo => ?_⟩
  · rw [issue_clr_of_err herr hd, accept_eq]
  · rw [issue_of_decode_error herr hd, raiseError_of_not_err s herr]
  · rw [issue_of_precondition herr hd (issueError_encr hrkv), raiseError_of_not_err s herr]
  · rw [issue_of_precondition herr hd (issueError_hexo hidx), raiseError_of_not_err s herr]
  · rw [issue_of_accepted herr hd (issueError_none hencr hhexo), accept_eq]

/-- Settles O25: the word of a `HEXO` decodes to it, and its index fails the precondition; `storeBlock` refuses the same
indices. -/
theorem hexoOutsideOutputBuffer : Obligations.HexoOutsideOutputBuffer := by
  unfold Obligations.HexoOutsideOutputBuffer
  refine fun s idx hidx => ⟨exec_hexo_fault.mpr ⟨hidx, rfl⟩, fun hlt hb herr => ?_⟩
  have hd : decode (cmdValue (encode (.hexo idx))) = .ok (.hexo idx) := decode_encode (decide_eq_true hlt)
  rw [hostRegWrite_of_mapped (r := .cmd) hb rfl, writeReg, issue_of_precondition herr hd (issueError_hexo hidx),
    raiseError_of_not_err s herr]

/-! ### The idle latch (10_state.md R34) -/

/-- `CMDL <- w` and nothing else. -/
def State.setCmdl (s : State) (w : CmdWord) : State := { s with cmdl := w }

@[simp] theorem State.setCmdl_busy (s : State) (w : CmdWord) : (s.setCmdl w).busy = s.busy := rfl

/-- `s` with another word in the latch, if no command is in flight. -/
def relatchIdle (w : CmdWord) (s : State) : State := if s.busy then s else s.setCmdl w

theorem relatchIdle_of_busy {w : CmdWord} {s : State} (h : s.busy = true) : relatchIdle w s = s := if_pos h

theorem relatchIdle_of_idle {w : CmdWord} {s : State} (h : s.busy = false) :
    relatchIdle w s = s.setCmdl w := by
  simp [relatchIdle, h]

theorem sameButIdleLatch_relatchIdle (w : CmdWord) (s : State) : SameButIdleLatch s (relatchIdle w s) := by
  cases hb : s.busy with
  | true =>
    rw [relatchIdle_of_busy hb]
    exact ⟨rfl, fun _ => rfl⟩
  | false =>
    rw [relatchIdle_of_idle hb]
    exact ⟨rfl, fun h => flag_unchanged hb rfl h⟩

theorem SameButIdleLatch.eq_relatchIdle {s s' : State} (h : SameButIdleLatch s s') : s' = relatchIdle s'.cmdl s := by
  obtain ⟨hsame, hlatch⟩ := h
  cases hb : s.busy with
  | true =>
    rw [relatchIdle_of_busy hb, ← hsame, ← hlatch hb]
  | false =>
    rw [relatchIdle_of_idle hb]
    exact hsame.symm

theorem raiseError_relatch (s : State) (c : ErrCode) (w : CmdWord) :
    raiseError c (s.setCmdl w) = (raiseError c s).setCmdl w := by
  rw [raiseError_eq, raiseError_eq]
  rfl

/-- Raising an error does not end the idleness that makes the latch unobservable. -/
theorem raiseError_relatchIdle {s : State} (hb : s.busy = false) (c : ErrCode) (w : CmdWord) :
    raiseError c (s.setCmdl w) = relatchIdle w (raiseError c s) := by
  rw [raiseError_relatch, relatchIdle_of_idle (by rw [raiseError_busy, hb])]

theorem regValue_relatch (s : State) (w : CmdWord) (r : RegName) : regValue (s.setCmdl w) r = regValue s r := by
  cases r with
  | klen k => cases k <;> rfl
  | cmd | status | errcode | dlen | olen | blk | seg | cap | rk i => rfl

theorem readSpace_relatch (s : State) (w : CmdWord) (S : Space) (i : Nat) :
    readSpace (s.setCmdl w) S i = readSpace s S i := by
  cases S with
  | kmem k => cases k <;> rfl
  | dmem | omem => rfl

theorem hostRegRead_relatchIdle {s : State} (hb : s.busy = false) (w : CmdWord) (n : Nat) :
    hostRegRead n (s.setCmdl w) = relatchIdle w (hostRegRead n s) := by
  cases hn : regOf n with
  | none =>
    rw [hostRegRead_of_unmapped hn, hostRegRead_of_unmapped hn, raiseError_relatch,
      relatchIdle_of_idle (by simpa using hb)]
    rfl
  | some r =>
    rw [hostRegRead_of_settled hn (.inl hb), hostRegRead_of_settled (s := s.setCmdl w) hn (.inl hb), regValue_relatch,
      relatchIdle_of_idle (s := s.setReply (regValue s r)) hb]
    rfl

/-- The issue of a command either latches its word, whatever the latch held, or leaves the engine idle. -/
theorem issue_relatchIdle {s : State} (hb : s.busy = false) (w : CmdWord) (v : BitVec 64) :
    issue v (s.setCmdl w) = relatchIdle w (issue v s) := by
  have hdropped : s.setCmdl w = relatchIdle w s := (relatchIdle_of_idle hb).symm
  have haccepted : accept v (s.setCmdl w) = relatchIdle w (accept v s) :=
    (relatchIdle_of_busy (accept_busy s v)).symm
  cases hd : decode v with
  | error c =>
    cases herr : s.err with
    | true =>
      have hother : decode v ≠ .ok .clr := by simp [hd]
      rwa [issue_dropped_of_err herr hother, issue_dropped_of_err (s := s.setCmdl w) herr hother]
    | false =>
      rw [issue_of_decode_error herr hd, issue_of_decode_error (s := s.setCmdl w) herr hd, raiseError_relatchIdle hb]
  | ok i =>
    cases herr : s.err with
    | true =>
      by_cases hclr : i = .clr
      · subst hclr
        rwa [issue_clr_of_err herr hd, issue_clr_of_err (s := s.setCmdl w) herr hd]
      · have hother : decode v ≠ .ok .clr := by simp [hd, hclr]
        rwa [issue_dropped_of_err herr hother, issue_dropped_of_err (s := s.setCmdl w) herr hother]
    | false =>
      have hpre : issueError (s.setCmdl w) i = issueError s i := issueError_congr rfl rfl i
      cases hc : issueError s i with
      | some c =>
        rw [issue_of_precondition herr hd hc, issue_of_precondition (s := s.setCmdl w) herr hd (hpre.trans hc),
          raiseError_relatchIdle hb]
      | none =>
        rwa [issue_of_accepted herr hd hc, issue_of_accepted (s := s.setCmdl w) herr hd (hpre.trans hc)]

theorem writeReg_dlen_of_le {s : State} {v : BitVec 64} (hv : v.toNat ≤ s.cfg.maxd) :
    writeReg .dlen v s = s.setDlen (v.setWidth 32) := if_pos hv

theorem writeReg_dlen_of_not_le {s : State} {v : BitVec 64} (hv : ¬v.toNat ≤ s.cfg.maxd) :
    writeReg .dlen v s = raiseError .len s := if_neg hv

theorem writeReg_klen_of_le {s : State} {k : KeySel} {v : BitVec 64} (hv : v.toNat ≤ s.cfg.maxk) :
    writeReg (.klen k) v s = s.setKlen k (v.setWidth 32) := if_pos hv

theorem writeReg_klen_of_not_le {s : State} {k : KeySel} {v : BitVec 64} (hv : ¬v.toNat ≤ s.cfg.maxk) :
    writeReg (.klen k) v s = raiseError .len s := if_neg hv

theorem writeReg_relatchIdle {s : State} (hb : s.busy = false) (w : CmdWord) (r : RegName) (v : BitVec 64) :
    writeReg r v (s.setCmdl w) = relatchIdle w (writeReg r v s) := by
  cases r with
  | cmd => exact issue_relatchIdle hb w v
  | dlen =>
    by_cases hv : v.toNat ≤ s.cfg.maxd
    · rw [writeReg_dlen_of_le hv, writeReg_dlen_of_le (s := s.setCmdl w) hv,
        relatchIdle_of_idle (s := s.setDlen (v.setWidth 32)) hb]
      rfl
    · rw [writeReg_dlen_of_not_le hv, writeReg_dlen_of_not_le (s := s.setCmdl w) hv, raiseError_relatchIdle hb]
  | klen k =>
    by_cases hv : v.toNat ≤ s.cfg.maxk
    · rw [writeReg_klen_of_le hv, writeReg_klen_of_le (s := s.setCmdl w) hv,
        relatchIdle_of_idle (by rw [State.setKlen_busy, hb])]
      cases k <;> rfl
    · rw [writeReg_klen_of_not_le hv, writeReg_klen_of_not_le (s := s.setCmdl w) hv, raiseError_relatchIdle hb]
  | blk => exact (relatchIdle_of_idle (s := s.setBlk v) hb).symm
  | seg => exact (relatchIdle_of_idle (s := s.setSeg v) hb).symm
  | status | errcode | olen | cap | rk i => exact raiseError_relatchIdle hb .addr w

theorem hostRegWrite_relatchIdle {s : State} (hb : s.busy = false) (w : CmdWord) (n : Nat) (v : BitVec 64) :
    hostRegWrite n v (s.setCmdl w) = relatchIdle w (hostRegWrite n v s) := by
  cases hn : regOf n with
  | none =>
    rw [hostRegWrite_of_unmapped hb hn, hostRegWrite_of_unmapped (s := s.setCmdl w) hb hn, raiseError_relatchIdle hb]
  | some r =>
    rw [hostRegWrite_of_mapped hb hn, hostRegWrite_of_mapped (s := s.setCmdl w) hb hn, writeReg_relatchIdle hb]

theorem hostMemRead_relatchIdle {s : State} (hb : s.busy = false) (w : CmdWord) (S : Space) (i : Nat) :
    hostMemRead S i (s.setCmdl w) = (hostMemRead S i s).map (relatchIdle w) := by
  have hread := readSpace_relatch s w S i
  by_cases hi : i < spaceCap s.cfg S
  · cases hc : readSpace s S i with
    | none =>
      rw [hostMemRead_of_unwritten hi hc, hostMemRead_of_unwritten (s := s.setCmdl w) hi (hread.trans hc)]
      rfl
    | some v =>
      have hsettled : ¬(S = .omem ∧ s.busy = true) := by simp [hb]
      rw [hostMemRead_of_written hi hc, hostMemRead_of_written (s := s.setCmdl w) hi (hread.trans hc),
        State.setCmdl_busy, if_neg hsettled, if_neg hsettled, Except.map, relatchIdle_of_idle (s := s.setReply v) hb]
      rfl
  · have hout : spaceCap s.cfg S ≤ i := Nat.not_lt.mp hi
    rw [hostMemRead_of_outside hout, hostMemRead_of_outside (s := s.setCmdl w) hout, raiseError_relatch, Except.map,
      relatchIdle_of_idle (by simpa using hb)]
    rfl

theorem hostMemWrite_relatchIdle {s : State} (hb : s.busy = false) (w : CmdWord) (S : Space) (i : Nat) (v : CharCell) :
    hostMemWrite S i v (s.setCmdl w) = relatchIdle w (hostMemWrite S i v s) := by
  by_cases hS : S = .omem ∨ spaceCap s.cfg S ≤ i
  · rw [hostMemWrite_of_refused hb hS, hostMemWrite_of_refused (s := s.setCmdl w) hb hS, raiseError_relatchIdle hb]
  · obtain ⟨hne, hi⟩ := not_or.mp hS
    rw [relatchIdle_of_idle ((hostMemWrite_keepsCompletion s S i v).1.trans hb)]
    cases S with
    | omem => exact absurd rfl hne
    | dmem =>
      rw [hostMemWrite_dmem v hb (Nat.not_le.mp hi), hostMemWrite_dmem (s := s.setCmdl w) v hb (Nat.not_le.mp hi)]
      rfl
    | kmem k =>
      rw [hostMemWrite_kmem k v hb (Nat.not_le.mp hi), hostMemWrite_kmem (s := s.setCmdl w) k v hb (Nat.not_le.mp hi)]
      cases k <;> rfl

/-- No host move looks at an idle latch: the same answer, the same fault, the same state but for the latch. -/
theorem hostMove_relatchIdle {s : State} (hb : s.busy = false) (w : CmdWord) (m : HostMove) :
    hostMove m (s.setCmdl w) = (hostMove m s).map (relatchIdle w) := by
  cases m with
  | regRead n => exact congrArg Except.ok (hostRegRead_relatchIdle hb w n)
  | regWrite n v => exact congrArg Except.ok (hostRegWrite_relatchIdle hb w n v)
  | memRead S i => exact hostMemRead_relatchIdle hb w S i
  | memWrite S i v => exact congrArg Except.ok (hostMemWrite_relatchIdle hb w S i v)

/-- What an outcome becomes when the latch of an idle next state holds another word. -/
def relatchOutcome (w : CmdWord) : Host.Outcome State Fault Refusal → Host.Outcome State Fault Refusal
  | .next t => .next (relatchIdle w t)
  | .fault f => .fault f
  | .refused r => .refused r

theorem toOutcome_map_relatchIdle (w : CmdWord) (r : Result) :
    toOutcome (r.map (relatchIdle w)) = relatchOutcome w (toOutcome r) := by
  cases r <;> rfl

theorem takeTurn_relatch {s : State} (hb : s.busy = false) (w : CmdWord) (turn : Turn) :
    takeTurn turn (s.setCmdl w) = relatchOutcome w (takeTurn turn s) := by
  cases turn with
  | engine =>
    rw [takeTurn, takeTurn, engineTurn_of_idle hb, engineTurn_of_idle (s := s.setCmdl w) hb, relatchOutcome,
      relatchIdle_of_idle hb]
  | host m => rw [takeTurn, takeTurn, hostMove_relatchIdle hb, toOutcome_map_relatchIdle]
  | reset => rfl

/-- A step takes the turn at the head of the agenda, the engine's if there is none. -/
theorem step_eq_takeTurn (s : State) :
    step s = takeTurn (s.agenda.head?.getD .engine) (s.setAgenda s.agenda.tail) := by
  cases ha : s.agenda with
  | nil =>
    have hagenda : s.setAgenda [] = s := by rw [State.setAgenda, ← ha]
    rw [step, ha, List.tail_nil, hagenda]
    rfl
  | cons turn ts =>
    rw [step, ha]
    rfl

theorem step_relatch {s : State} (hb : s.busy = false) (w : CmdWord) :
    step (s.setCmdl w) = relatchOutcome w (step s) := by
  rw [step_eq_takeTurn, step_eq_takeTurn s]
  exact takeTurn_relatch (s := s.setAgenda s.agenda.tail) hb w _

/-- Settles O51: with a command in flight the states are equal; otherwise every turn does the same with another latch
(`step_relatch`). -/
theorem idleLatchUnobservable : Obligations.IdleLatchUnobservable := by
  unfold Obligations.IdleLatchUnobservable
  intro s s' h
  rw [h.eq_relatchIdle]
  generalize s'.cmdl = w
  cases hb : s.busy with
  | true =>
    rw [relatchIdle_of_busy hb]
    exact ⟨fun t ht => ⟨t, ht, rfl, fun _ => rfl⟩, fun _ hf => hf, fun _ hr => hr⟩
  | false =>
    rw [relatchIdle_of_idle hb, step_relatch hb w]
    refine ⟨fun t ht => ⟨relatchIdle w t, ?_, sameButIdleLatch_relatchIdle w t⟩, fun f hf => ?_, fun r hr => ?_⟩
    · rw [ht, relatchOutcome]
    · rw [hf, relatchOutcome]
    · rw [hr, relatchOutcome]

end Sys2Proof.Machine

/-! PROOFS. The rest of 40_bitcodec.md: the packs of both kinds of buffer (R91, R93 to R95, 10_state.md R39). -/
namespace Sys2Proof.Machine

/-- Settles O18: as for `PACKD`, with the key slot's buffer. -/
theorem packkLoadsChunk : Obligations.PackkLoadsChunk := by
  unfold Obligations.PackkLoadsChunk
  intro s k idx hwritten
  obtain ⟨cs, hcs⟩ := fetchChunk_succeeds (S := .kmem k) hwritten
  rw [← packChunk_of_fetchChunk hcs]
  exact exec_packk_next.mpr ⟨cs, hcs, rfl⟩

/-- A chunk at or beyond the end of the string has no character (40_bitcodec.md R95). -/
theorem fetchChunk_of_ceil4_le {S : Space} {m : Cells 16} {cap len idx : Nat} (h : ceil4 len ≤ idx) :
    fetchChunk S m cap len idx = .ok [] := by
  rw [ceil4] at h
  exact fetchChunk_beyond (by omega)

/-- Settles O19: no cell is read, and no characters pack to 0. -/
theorem packBeyondStringIsZero : Obligations.PackBeyondStringIsZero := by
  unfold Obligations.PackBeyondStringIsZero
  refine fun s idx => ⟨fun h => exec_packd_next.mpr ⟨[], fetchChunk_of_ceil4_le h, ?_⟩,
    fun k h => exec_packk_next.mpr ⟨[], fetchChunk_of_ceil4_le h, ?_⟩⟩
  · rw [packChunk_nil]
    rfl
  · rw [packChunk_nil]
    rfl

/-- A chunk with an unwritten cell faults at such a cell, if its length is legal. -/
theorem fetchChunk_of_unwritten {S : Space} {m : Cells 16} {cap len idx n : Nat} (hlen : len ≤ cap)
    (hn : isChunkCell len idx n) (hread : readCell m n = none) : ∃ n', isChunkCell len idx n' ∧ readCell m n' = none ∧
      fetchChunk S m cap len idx = .error (.unwrittenCell S n') := by
  cases h : fetchChunk S m cap len idx with
  | ok cs =>
    obtain ⟨hlength, hcells⟩ := fetchCells_ok.mp h
    obtain ⟨hlow, hhigh⟩ := isChunkCell_iff_lt_chunkSize.mp hn
    obtain ⟨j, rfl⟩ : ∃ j, n = 4 * idx + j := ⟨n - 4 * idx, by omega⟩
    obtain ⟨-, hwritten⟩ := hcells j (by omega)
    simp [hread] at hwritten
  | error e =>
    obtain ⟨n', hlow, hhigh, hfault⟩ := fetchCells_error h
    have hcell : isChunkCell len idx n' := isChunkCell_iff_lt_chunkSize.mpr ⟨hlow, hhigh⟩
    obtain ⟨-, hread', rfl⟩ | ⟨hout, -⟩ := hfault
    · exact ⟨n', hcell, hread', rfl⟩
    · obtain ⟨-, -, hbelow⟩ := hcell
      omega

/-- Settles O20: `fetchChunk_of_unwritten` for the plaintext buffer and for a key buffer. -/
theorem packFaultsOnUnwrittenCell : Obligations.PackFaultsOnUnwrittenCell := by
  unfold Obligations.PackFaultsOnUnwrittenCell
  refine fun s idx n => ⟨fun hlen hn hread => ?_, fun k hlen hn hread => ?_⟩
  · obtain ⟨n', hn', hread', hfault⟩ := fetchChunk_of_unwritten (S := .dmem) hlen hn hread
    exact ⟨n', hn', hread', exec_packd_fault.mpr hfault⟩
  · obtain ⟨n', hn', hread', hfault⟩ := fetchChunk_of_unwritten (S := .kmem k) hlen hn hread
    exact ⟨n', hn', hread', exec_packk_fault.mpr hfault⟩

/-- A chunk is read from its own cells alone (40_bitcodec.md R91). -/
theorem fetchChunk_congr_chunk {S : Space} {m m' : Cells 16} {cap len idx : Nat}
    (h : ∀ n, isChunkCell len idx n → readCell m' n = readCell m n) :
    fetchChunk S m' cap len idx = fetchChunk S m cap len idx :=
  fetchCells_congr fun n hlow hhigh => h n (isChunkCell_iff_lt_chunkSize.mpr ⟨hlow, hhigh⟩)

theorem plainChunk_setDmem {s : State} {m : Cells 16} {idx : Nat}
    (h : ∀ n, isChunkCell s.dlen.toNat idx n → readCell m n = readCell s.dmem n) :
    plainChunk (s.setDmem m) idx = plainChunk s idx :=
  fetchChunk_congr_chunk h

theorem keyChunk_setKmem {s : State} {k : KeySel} {m : Cells 16} {idx : Nat}
    (h : ∀ n, isChunkCell (klen s k).toNat idx n → readCell m n = readCell (kmem s k) n) :
    keyChunk (s.setKmem k m) k idx = keyChunk s k idx := by
  have hklen : klen (s.setKmem k m) k = klen s k := by cases k <;> rfl
  rw [keyChunk, keyChunk, kmem_setKmem, hklen, State.setKmem_cfg]
  exact fetchChunk_congr_chunk h

/-- Settles O21: the chunk read is the same, and a pack writes no buffer. -/
theorem packReadsOnlyItsChunk : Obligations.PackReadsOnlyItsChunk := by
  unfold Obligations.PackReadsOnlyItsChunk
  refine fun s m idx => ⟨fun h t ht => ?_, fun k h t ht => ?_⟩
  · obtain ⟨cs, hcs, rfl⟩ := exec_packd_next.mp ht
    exact exec_packd_next.mpr ⟨cs, (plainChunk_setDmem h).trans hcs, rfl⟩
  · obtain ⟨cs, hcs, rfl⟩ := exec_packk_next.mp ht
    exact exec_packk_next.mpr ⟨cs, (keyChunk_setKmem h).trans hcs, by cases k <;> rfl⟩

end Sys2Proof.Machine

/-! PROOFS. The command of 41_keyscheduler.md (R101), and the rest of 42_blockcipher.md: FP and IP undo each other
(R119), and `Encrypt` is a composition of bijections (R126). -/
namespace Sys2Proof.Machine

/-- Settles O22: `KSCHED` writes `Derive(SEG)`, whose keys are given by `derive_getElem`. -/
theorem kschedDerivesRoundKeys : Obligations.KschedDerivesRoundKeys := by
  unfold Obligations.KschedDerivesRoundKeys
  exact fun s => ⟨derive s.cfg.tables s.seg, rfl, fun i => derive_getElem s.cfg.tables s.seg i⟩

/-- The table `u` reads every bit of a value from where the table `t` has put it. -/
abbrev UndoesTable {n : Nat} (u t : Vector Nat n) : Prop :=
  ∀ j : Fin n, 1 ≤ u[j] ∧ t[u[j] - 1]? = some (j.val + 1)

theorem permute_permute_of_undoes {n : Nat} {u t : Vector Nat n} (h : UndoesTable u t) (x : BitVec n) :
    permute u (permute t x) = x := by
  refine eq_of_getMsbD fun j hj => ?_
  obtain ⟨hlow, hentry⟩ := h ⟨j, hj⟩
  obtain ⟨hbound, hentry⟩ := Vector.getElem?_eq_some_iff.mp hentry
  have hback : t[u[j] - 1] = j + 1 := hentry
  have hin : u[j] - 1 < n := hbound
  calc (permute u (permute t x)).getMsbD j
      _ = dbit (permute t x) u[j] := getMsbD_permute u _ j hj
      _ = (permute t x).getMsbD (u[j] - 1) := dbit_eq_getMsbD _ hlow (by omega)
      _ = dbit x (j + 1) := by rw [getMsbD_permute t x _ hin, hback]
      _ = x.getMsbD j := dbit_eq_getMsbD x (by omega) hj

theorem fp_undoes_ip : UndoesTable fpPublished ipPublished := by decide

theorem ip_undoes_fp : UndoesTable ipPublished fpPublished := by decide

/-- Settles O36: each of the two tables undoes the other. -/
theorem finalPermutationInvertsInitial : Obligations.FinalPermutationInvertsInitial := by
  unfold Obligations.FinalPermutationInvertsInitial
  intro T x hip hfp
  rw [hip, hfp]
  exact ⟨permute_permute_of_undoes fp_undoes_ip x, permute_permute_of_undoes ip_undoes_fp x⟩

theorem permute_bijective {n : Nat} {u t : Vector Nat n} (hut : UndoesTable u t) (htu : UndoesTable t u) :
    Function.Bijective fun x : BitVec n => permute t x :=
  Function.bijective_iff_has_inverse.mpr
    ⟨permute u, permute_permute_of_undoes hut, permute_permute_of_undoes htu⟩

/-- One round on a pair of halves (42_blockcipher.md R118). -/
def feistelRound (t : Tables) (k : RoundKey) (p : Half × Half) : Half × Half := (p.2, p.1 ^^^ feistelF t p.2 k)

/-- A round is undone by its own round function, whatever that is (42_blockcipher.md R126). -/
theorem feistelRound_bijective (t : Tables) (k : RoundKey) : Function.Bijective (feistelRound t k) := by
  refine Function.bijective_iff_has_inverse.mpr ⟨fun q => (q.2 ^^^ feistelF t q.1 k, q.1), fun p => ?_, fun q => ?_⟩
  · simp [feistelRound]
  · simp [feistelRound]

theorem feistelRounds_bijective (t : Tables) (ks : List RoundKey) :
    Function.Bijective fun p : Half × Half => feistelRounds t ks p.1 p.2 := by
  induction ks with
  | nil => exact Function.bijective_id
  | cons k ks ih => exact ih.comp (feistelRound_bijective t k)

/-- A block is its two halves. -/
theorem halves_bijective :
    Function.Bijective fun v : Block => ((v.extractLsb' 32 32 : Half), (v.extractLsb' 0 32 : Half)) := by
  refine Function.bijective_iff_has_inverse.mpr ⟨fun p => p.1 ++ p.2, fun v => ?_, fun p => ?_⟩
  · exact BitVec.extractLsb'_append_extractLsb' (w := 32) (len := 32) (x := v)
  · exact Prod.ext BitVec.extractLsb'_append_eq_left BitVec.extractLsb'_append_eq_right

/-- The two halves crosswise, as FP takes them (42_blockcipher.md R119). -/
theorem crosswise_bijective : Function.Bijective fun p : Half × Half => (p.2 ++ p.1 : Block) := by
  refine Function.bijective_iff_has_inverse.mpr
    ⟨fun v => (v.extractLsb' 0 32, v.extractLsb' 32 32), fun p => ?_, fun v => ?_⟩
  · exact Prod.ext BitVec.extractLsb'_append_eq_right BitVec.extractLsb'_append_eq_left
  · exact BitVec.extractLsb'_append_extractLsb' (w := 32) (len := 32) (x := v)

/-- Settles O37: IP, the halves, the rounds, the crossing and FP are bijections one after the other. -/
theorem encryptIsBijective : Obligations.EncryptIsBijective := by
  unfold Obligations.EncryptIsBijective
  intro T rk hip hfp
  have hIP : Function.Bijective fun x : Block => permute T.ip x := hip ▸ permute_bijective fp_undoes_ip ip_undoes_fp
  have hFP : Function.Bijective fun x : Block => permute T.fp x := hfp ▸ permute_bijective ip_undoes_fp fp_undoes_ip
  unfold encrypt
  exact hFP.comp (crosswise_bijective.comp ((feistelRounds_bijective T rk.toList).comp (halves_bijective.comp hIP)))

end Sys2Proof.Machine

/-! PROOFS. `CASC` and its component commands (30_encoding.md R78; 43_cascade.md R140, R142, R143): a list of commands
as a loop of completions, the loop of a stage, of a key, of a block, and of all blocks. -/
namespace Sys2Proof.Machine

/-! ### A list of commands as a loop -/

/-- What the completion of a command answers: `exec` never refuses, so a state or a fault. -/
def complete (s : State) : Instr → Result
  | .nop => .ok (finish s)
  | .clr => .ok (finish (clearRegisters s))
  | .packd n => (packPlain n s).map finish
  | .packk k n => (packKey k n s).map finish
  | .ksched => .ok (finish (scheduleKeys s))
  | .encr => .ok (finish (encryptBlock s))
  | .casc => (runCascade s).map finish
  | .hexo n => (writeHex n s).map fun t => finish (t.setOlen (BitVec.ofNat 32 (16 * (n + 1))))

theorem exec_eq_toOutcome_complete (i : Instr) (s : State) : exec i s = toOutcome (complete s i) := by
  cases i <;> rfl

/-- Commands one after the other are a loop of completions. -/
theorem execAll_eq_foldlM (is : List Instr) (s : State) : execAll is s = toOutcome (is.foldlM complete s) := by
  induction is generalizing s with
  | nil => rfl
  | cons i is ih =>
    rw [execAll, exec_eq_toOutcome_complete, List.foldlM_cons]
    cases complete s i with
    | ok t => exact ih t
    | error e => rfl

/-- A loop over groups of commands is a loop of loops. -/
theorem foldlM_flatMap {α β : Type} (f : State → β → Result) (g : α → List β) (l : List α) (s : State) :
    (l.flatMap g).foldlM f s = l.foldlM (fun t a => (g a).foldlM f t) s := by
  induction l generalizing s with
  | nil => rfl
  | cons a l ih => simp [List.foldlM_append, ih]

/-! ### A stage -/

/-- A stage is one segment of the cascade, completed (30_encoding.md R78, 43_cascade.md R142). -/
theorem stageExpansion_foldlM (k : KeySel) (j : Nat) (s : State) :
    (stageExpansion k j).foldlM complete s = (cascSegment k j s).map finish := by
  rw [stageExpansion, cascSegment, List.foldlM_cons, complete]
  cases packKey k j s <;> rfl

theorem keyChunk_of_chunkWritten {s : State} {k : KeySel} {idx : Nat}
    (h : ChunkWritten (kmem s k) s.cfg.maxk (klen s k).toNat idx) :
    ∃ cs, keyChunk s k idx = .ok cs ∧ packChunk cs = packValue (kmem s k) (klen s k).toNat idx := by
  obtain ⟨cs, hcs⟩ := fetchChunk_succeeds (S := .kmem k) h
  exact ⟨cs, hcs, packChunk_of_fetchChunk hcs⟩

/-- Settles O26: the three commands are one segment of the cascade, and `cascSegment_of_chunk` says what that does. -/
theorem stageAppliesOneSegment : Obligations.StageAppliesOneSegment := by
  unfold Obligations.StageAppliesOneSegment
  rintro s k idx hwritten g rfl
  obtain ⟨cs, hcs, hvalue⟩ := keyChunk_of_chunkWritten hwritten
  rw [execAll_eq_foldlM, stageExpansion_foldlM, cascSegment_of_chunk hcs, hvalue]
  rfl

/-! ### What a running cascade does not look at -/

/-- `g` changes nothing that the operations of a cascade read or write, so it commutes with each of them. -/
structure CascadeIgnores (g : State → State) : Prop where
  plainChunk : ∀ s b, plainChunk (g s) b = plainChunk s b
  keyChunk : ∀ s k j, keyChunk (g s) k j = keyChunk s k j
  klen : ∀ s k, klen (g s) k = klen s k
  setBlk : ∀ s v, (g s).setBlk v = g (s.setBlk v)
  encryptUnderSeg : ∀ s v,
    encryptBlock (scheduleKeys ((g s).setSeg v)) = g (encryptBlock (scheduleKeys (s.setSeg v)))
  writeHex : ∀ s b, writeHex b (g s) = (writeHex b s).map g

theorem CascadeIgnores.cascSegment {g : State → State} (hg : CascadeIgnores g) (k : KeySel) (j : Nat) (s : State) :
    cascSegment k j (g s) = (cascSegment k j s).map g := by
  rw [Machine.cascSegment, Machine.cascSegment, packKey, packKey, hg.keyChunk]
  cases Machine.keyChunk s k j with
  | ok cs => exact congrArg Except.ok (hg.encryptUnderSeg s (packChunk cs))
  | error e => rfl

theorem CascadeIgnores.cascKey {g : State → State} (hg : CascadeIgnores g) (s : State) (k : KeySel) :
    cascKey (g s) k = (cascKey s k).map g := by
  rw [Machine.cascKey, Machine.cascKey, hg.klen]
  exact foldlM_map (fun s j => hg.cascSegment k j s) _ s

theorem CascadeIgnores.cascBlock {g : State → State} (hg : CascadeIgnores g) (s : State) (b : Nat) :
    cascBlock (g s) b = (cascBlock s b).map g := by
  rw [Machine.cascBlock, Machine.cascBlock, packPlain, packPlain, hg.plainChunk]
  cases Machine.plainChunk s b with
  | error e => rfl
  | ok cs =>
    show ([KeySel.key1, .key2, .key3].foldlM Machine.cascKey ((g s).setBlk (packChunk cs)) >>= Machine.writeHex b) =
      ([KeySel.key1, .key2, .key3].foldlM Machine.cascKey (s.setBlk (packChunk cs)) >>= Machine.writeHex b).map g
    rw [hg.setBlk, foldlM_map hg.cascKey]
    cases [KeySel.key1, .key2, .key3].foldlM Machine.cascKey (s.setBlk (packChunk cs)) with
    | error e => rfl
    | ok v => exact hg.writeHex v b

/-- A cascade does not look at the completion flags. -/
theorem cascadeIgnores_finish : CascadeIgnores finish where
  plainChunk _ _ := rfl
  keyChunk _ k _ := by cases k <;> rfl
  klen _ k := by cases k <;> rfl
  setBlk _ _ := rfl
  encryptUnderSeg _ _ := rfl
  writeHex s b := by
    rw [Machine.writeHex, Machine.writeHex, storeBlock, storeBlock, finish_cfg]
    split <;> rfl

/-- A cascade does not look at `OLEN`. -/
theorem cascadeIgnores_setOlen (v : BitVec 32) : CascadeIgnores (·.setOlen v) where
  plainChunk _ _ := rfl
  keyChunk _ k _ := by cases k <;> rfl
  klen _ k := by cases k <;> rfl
  setBlk _ _ := rfl
  encryptUnderSeg _ _ := rfl
  writeHex s b := by
    rw [Machine.writeHex, Machine.writeHex, storeBlock, storeBlock, State.setOlen_cfg]
    split <;> rfl

theorem CascadeIgnores.comp {f g : State → State} (hf : CascadeIgnores f) (hg : CascadeIgnores g) :
    CascadeIgnores (fun s => f (g s)) where
  plainChunk s b := (hf.plainChunk (g s) b).trans (hg.plainChunk s b)
  keyChunk s k j := (hf.keyChunk (g s) k j).trans (hg.keyChunk s k j)
  klen s k := (hf.klen (g s) k).trans (hg.klen s k)
  setBlk s v := (hf.setBlk (g s) v).trans (congrArg f (hg.setBlk s v))
  encryptUnderSeg s v := (hf.encryptUnderSeg (g s) v).trans (congrArg f (hg.encryptUnderSeg s v))
  writeHex s b := by
    rw [hf.writeHex, hg.writeHex]
    cases Machine.writeHex b s <;> rfl

/-- What the last command of block `b`, a `HEXO`, leaves in `OLEN` and the completion flags (44_hexencoder.md R157). -/
def completeBlock (b : Nat) (s : State) : State := finish (s.setOlen (BitVec.ofNat 32 (16 * (b + 1))))

theorem cascadeIgnores_completeBlock (b : Nat) : CascadeIgnores (completeBlock b) :=
  cascadeIgnores_finish.comp (cascadeIgnores_setOlen _)

/-- An update after another that it overwrites. -/
theorem map_map_of_overwrites {f g : State → State} (h : ∀ s, g (f s) = g s) (r : Result) :
    (r.map f).map g = r.map g := by
  cases r with
  | ok s => exact congrArg Except.ok (h s)
  | error e => rfl

/-! ### The component commands of a key, of a block and of all blocks (43_cascade.md R143) -/

/-- A loop whose rounds do under `g` what the rounds of another do, then `g`, does so as a whole. -/
theorem foldlM_simulates {α : Type} {f f' : State → α → Result} {g : State → State}
    (h : ∀ s a, f' (g s) a = (f s a).map g) (l : List α) (s : State) : l.foldlM f' (g s) = (l.foldlM f s).map g := by
  induction l generalizing s with
  | nil => rfl
  | cons a l ih =>
    rw [List.foldlM_cons, List.foldlM_cons, h]
    cases f s a with
    | ok t => exact ih t
    | error e => rfl

theorem keyCommands_foldlM (k : KeySel) (s : State) :
    (keyCommands k (ceil4 (klen s k).toNat)).foldlM complete (finish s) = (cascKey s k).map finish := by
  rw [keyCommands, foldlM_flatMap, cascKey]
  refine foldlM_simulates (fun t j => ?_) _ s
  rw [stageExpansion_foldlM, cascadeIgnores_finish.cascSegment]
  exact map_map_of_overwrites (f := finish) (g := finish) (fun _ => rfl) _

/-- The keys of a block, with the lengths of the state `s` the cascade began in. -/
theorem keysCommands_foldlM {s : State} : ∀ (ks : List KeySel) {t : State}, (∀ k, klen t k = klen s k) →
    (ks.flatMap fun k => keyCommands k (ceil4 (klen s k).toNat)).foldlM complete (finish t) =
      (ks.foldlM cascKey t).map finish
  | [], _, _ => rfl
  | k :: ks, t, ht => by
    rw [List.flatMap_cons, List.foldlM_append, List.foldlM_cons, ← ht k, keyCommands_foldlM]
    cases hk : cascKey t k with
    | error e => rfl
    | ok u => exact keysCommands_foldlM ks fun j => ((cascKey_only hk).klen j).trans (ht j)

/-- The component commands of one block (43_cascade.md R143). -/
def blockCommands (s : State) (b : Nat) : List Instr :=
  [.packd b] ++ ([KeySel.key1, .key2, .key3].flatMap fun k => keyCommands k (ceil4 (klen s k).toNat)) ++ [.hexo b]

theorem cascCommands_eq_flatMap (s : State) :
    cascCommands s = (List.range (ceil4 s.dlen.toNat)).flatMap (blockCommands s) := by
  refine congrArg (List.flatMap · _) (funext fun b => ?_)
  simp [blockCommands, klen]

theorem foldlM_complete_singleton (i : Instr) (s : State) : [i].foldlM complete s = complete s i := by
  simp

theorem complete_hexo_finish (b : Nat) (s : State) :
    complete (finish s) (.hexo b) = (writeHex b s).map (completeBlock b) := by
  rw [complete, cascadeIgnores_finish.writeHex]
  exact map_map_of_overwrites (f := finish) (g := completeBlock b) (fun _ => rfl) _

theorem blockCommands_foldlM {s t : State} (ht : ∀ k, klen t k = klen s k) (b : Nat) :
    (blockCommands s b).foldlM complete t = (cascBlock t b).map (completeBlock b) := by
  rw [blockCommands, List.foldlM_append, List.foldlM_append, foldlM_complete_singleton, complete, cascBlock]
  cases hpack : packPlain b t with
  | error e => rfl
  | ok u =>
    have hu : ∀ k, klen u k = klen s k := fun k => ((packPlain_only hpack).klen k).trans (ht k)
    show (List.foldlM complete (finish u) _ >>= _) = Except.map _ (List.foldlM cascKey u _ >>= _)
    rw [keysCommands_foldlM _ hu]
    cases [KeySel.key1, .key2, .key3].foldlM cascKey u with
    | error e => rfl
    | ok v => exact (foldlM_complete_singleton _ _).trans (complete_hexo_finish b v)

/-- The component commands of the first blocks, at least one, are those blocks of the cascade; of what the `HEXO`s leave
in `OLEN` the last is what stays. -/
theorem blocksCommands_foldlM (s : State) (n : Nat) :
    ((List.range (n + 1)).flatMap (blockCommands s)).foldlM complete s =
      ((List.range (n + 1)).foldlM cascBlock s).map (completeBlock n) := by
  rw [foldlM_flatMap]
  induction n with
  | zero =>
    simp only [Nat.zero_add, List.range_one, List.foldlM_cons, List.foldlM_nil, bind_pure]
    exact blockCommands_foldlM (fun _ => rfl) 0
  | succ n ih =>
    rw [foldlM_range_succ, foldlM_range_succ (f := cascBlock), ih]
    cases hrun : (List.range (n + 1)).foldlM cascBlock s with
    | error e => rfl
    | ok u =>
      have hu : ∀ k, klen (completeBlock n u) k = klen s k := fun k =>
        ((cascadeIgnores_completeBlock n).klen u k).trans ((cascBlocks_only hrun).klen k)
      show List.foldlM complete (completeBlock n u) (blockCommands s (n + 1)) = Except.map _ (cascBlock u (n + 1))
      rw [blockCommands_foldlM hu, (cascadeIgnores_completeBlock n).cascBlock]
      exact map_map_of_overwrites (f := completeBlock n) (g := completeBlock (n + 1)) (fun _ => rfl) _

/-- Settles O28: with a block at least, the component commands are the blocks of the cascade (`blocksCommands_foldlM`)
and the last `HEXO` leaves the `OLEN` of `CASC`. -/
theorem cascEqualsComponentCommands : Obligations.CascEqualsComponentCommands := by
  unfold Obligations.CascEqualsComponentCommands
  refine fun s => ⟨fun hd => ?_, fun hd => ⟨?_, exec_casc_of_no_plaintext hd⟩⟩
  · have hpos : s.dlen.toNat ≠ 0 := fun h => hd (BitVec.eq_of_toNat_eq h)
    obtain ⟨n, hn⟩ : ∃ n, ceil4 s.dlen.toNat = n + 1 := ⟨ceil4 s.dlen.toNat - 1, by rw [ceil4]; omega⟩
    rw [execAll_eq_foldlM, cascCommands_eq_flatMap, exec_eq_toOutcome_complete, complete, runCascade, hn,
      blocksCommands_foldlM]
    cases (List.range (n + 1)).foldlM cascBlock s <;> rfl
  · rw [cascCommands_eq_flatMap, hd]
    rfl

/-! ### The result of `CASC` on loaded buffers (43_cascade.md R140) -/

/-- Settles O27: with no plaintext both strings are empty; otherwise `OMEM` takes the whole result in one run of writes
(`exec_casc_of_loaded`). -/
theorem cascComputesCascade : Obligations.CascComputesCascade := by
  unfold Obligations.CascComputesCascade
  intro s data key1 key2 key3 h hl
  have hlength := cascadeLength s.cfg.tables data key1 key2 key3
  by_cases hdata : data = []
  · subst hdata
    have hd : s.dlen = 0 := BitVec.eq_of_toNat_eq h.dlen
    exact ⟨_, exec_casc_of_no_plaintext hd, rfl, fun j hj => absurd hj (Nat.not_lt_zero j), fun _ _ => rfl⟩
  · refine ⟨_, exec_casc_of_loaded h hl hdata rfl, rfl, fun j hj => ?_, fun j hj => ?_⟩
    · have hread := readCell_writeCells_inside s.omem 0 _ hj
      rwa [Nat.zero_add] at hread
    · exact readCell_writeCells_outside _ _ _ (.inr (by omega))

end Sys2Proof.Machine

/-! PROOFS. One call of `encode` (20_memory.md R60, 70_reset_and_hazards.md R192, R193): the load of a string into any
character buffer, the four loads, then the run of `CASC` and the string it leaves. -/
namespace Sys2Proof.Machine

/-! ### The character buffers under one name -/

/-- The cells of a character buffer (20_memory.md R51). -/
def State.chars (s : State) : Space → Cells 16
  | .dmem => s.dmem
  | .kmem k => kmem s k
  | .omem => []

/-- A character buffer replaced. -/
def State.setChars (s : State) : Space → Cells 16 → State
  | .dmem, m => s.setDmem m
  | .kmem k, m => s.setKmem k m
  | .omem, _ => s

/-- The length register of a character buffer (10_state.md R26, R27). -/
def State.len (s : State) : Space → BitVec 32
  | .dmem => s.dlen
  | .kmem k => klen s k
  | .omem => 0

/-- The length register of a character buffer written. -/
def State.setLen (s : State) : Space → BitVec 32 → State
  | .dmem, v => s.setDlen v
  | .kmem k, v => s.setKlen k v
  | .omem, _ => s

/-- `r` is the number of the length register of the buffer `S` (10_state.md section 3). -/
def IsLengthRegister (r : Nat) : Space → Prop
  | .dmem => regOf r = some .dlen
  | .kmem k => regOf r = some (.klen k)
  | .omem => False

theorem State.chars_setChars (s : State) {S : Space} (hS : S ≠ .omem) (m : Cells 16) :
    (s.setChars S m).chars S = m := by
  cases S with
  | dmem => rfl
  | kmem k => exact kmem_setKmem s k m
  | omem => exact absurd rfl hS

theorem State.setChars_setChars (s : State) (S : Space) (m m' : Cells 16) :
    (s.setChars S m).setChars S m' = s.setChars S m' := by
  cases S with
  | kmem k => cases k <;> rfl
  | dmem | omem => rfl

theorem State.setChars_chars (s : State) (S : Space) : s.setChars S (s.chars S) = s := by
  cases S with
  | kmem k => cases k <;> rfl
  | dmem | omem => rfl

/-- Only the character buffers and their lengths differ between `s` and `t`: the load of a string (20_memory.md R60). -/
structure OnlyLoads (s t : State) : Prop where
  cfg : t.cfg = s.cfg
  busy : t.busy = s.busy
  err : t.err = s.err

theorem OnlyLoads.trans {s t u : State} (h : OnlyLoads s t) (h' : OnlyLoads t u) : OnlyLoads s u :=
  ⟨h'.cfg.trans h.cfg, h'.busy.trans h.busy, h'.err.trans h.err⟩

theorem State.setChars_only (s : State) (S : Space) (m : Cells 16) : OnlyLoads s (s.setChars S m) := by
  cases S with
  | kmem k => exact ⟨by simp [setChars], by simp [setChars], by simp [setChars]⟩
  | dmem | omem => exact ⟨rfl, rfl, rfl⟩

theorem State.setLen_only (s : State) (S : Space) (v : BitVec 32) : OnlyLoads s (s.setLen S v) := by
  cases S with
  | kmem k => exact ⟨by simp [setLen], by simp [setLen], by simp [setLen]⟩
  | dmem | omem => exact ⟨rfl, rfl, rfl⟩

/-! ### The turns of a load -/

/-- A write that passes its checks, whichever buffer it reaches and whatever turns are to come (20_memory.md R56). -/
theorem hostMemWrite_setAgenda {s : State} {S : Space} {i : Nat} (v : CharCell) (ts : List Turn) (hb : s.busy = false)
    (hS : S ≠ .omem) (hi : i < spaceCap s.cfg S) : hostMemWrite S i v (s.setAgenda ts) =
      (s.setChars S (writeCell (s.chars S) i v)).setAgenda ts := by
  cases S with
  | dmem => exact hostMemWrite_dmem (s := s.setAgenda ts) v hb hi
  | kmem k =>
    rw [hostMemWrite_kmem (s := s.setAgenda ts) k v hb hi]
    cases k <;> rfl
  | omem => exact absurd rfl hS

/-- The writes of a string leave it in consecutive cells (30_encoding.md R77, directive `WS`). -/
theorem runAgenda_stringTurns {S : Space} (hS : S ≠ .omem) (ts : List Turn) (cs : List CharCell) {s : State} {i : Nat}
    (hb : s.busy = false) (hi : i + cs.length ≤ spaceCap s.cfg S) :
    runAgenda (s.setAgenda (stringTurns S i cs ++ ts)) =
      runAgenda ((s.setChars S (writeCells (s.chars S) i cs)).setAgenda ts) := by
  induction cs generalizing s i with
  | nil => rw [stringTurns, writeCells, State.setChars_chars, List.nil_append]
  | cons c cs ih =>
    rw [List.length_cons] at hi
    have hwrite : hostMove (.memWrite S i c) (s.setAgenda (stringTurns S (i + 1) cs ++ ts)) =
        .ok ((s.setChars S (writeCell (s.chars S) i c)).setAgenda (stringTurns S (i + 1) cs ++ ts)) :=
      congrArg Except.ok (hostMemWrite_setAgenda c _ hb hS (by omega))
    have honly := s.setChars_only S (writeCell (s.chars S) i c)
    rw [stringTurns, List.cons_append, runAgenda_host hwrite, ih (honly.busy.trans hb) (by rw [honly.cfg]; omega),
      State.chars_setChars s hS, State.setChars_setChars, writeCells]

/-- A length within the capacity is taken by its register (20_memory.md R54). -/
theorem hostRegWrite_length_setAgenda {s : State} {S : Space} {r n : Nat} (ts : List Turn) (hr : IsLengthRegister r S)
    (hb : s.busy = false) (hn : n ≤ spaceCap s.cfg S) :
    hostRegWrite r (BitVec.ofNat 64 n) (s.setAgenda ts) = (s.setLen S (BitVec.ofNat 32 n)).setAgenda ts := by
  have hle (cap : Nat) (h : n ≤ cap) : (BitVec.ofNat 64 n).toNat ≤ cap := by
    rw [BitVec.toNat_ofNat]
    exact (Nat.mod_le _ _).trans h
  have hlow : (BitVec.ofNat 64 n).setWidth 32 = BitVec.ofNat 32 n := BitVec.setWidth_ofNat_of_le (by decide) n
  cases S with
  | dmem =>
    rw [hostRegWrite_of_mapped (s := s.setAgenda ts) hb hr, writeReg_dlen_of_le (s := s.setAgenda ts) (hle _ hn),
      hlow]
    rfl
  | kmem k =>
    rw [hostRegWrite_of_mapped (s := s.setAgenda ts) hb hr, writeReg_klen_of_le (s := s.setAgenda ts) (hle _ hn),
      hlow]
    cases k <;> rfl
  | omem => exact hr.elim

/-- The string `cs` stands in the buffer `S`, with its length in the length register. -/
def State.loadString (s : State) (S : Space) (cs : List CharCell) : State :=
  (s.setChars S (writeCells (s.chars S) 0 cs)).setLen S (BitVec.ofNat 32 cs.length)

theorem State.loadString_only (s : State) (S : Space) (cs : List CharCell) : OnlyLoads s (s.loadString S cs) :=
  (s.setChars_only S _).trans (State.setLen_only _ S _)

/-- The turns of the load of one string (20_memory.md R60). -/
theorem runAgenda_loadTurns {s : State} {S : Space} {r : Nat} {cs : List CharCell} (hS : S ≠ .omem)
    (hr : IsLengthRegister r S) (hb : s.busy = false) (hlen : cs.length ≤ spaceCap s.cfg S) (ts : List Turn) :
    runAgenda (s.setAgenda (loadTurns S r cs ++ ts)) = runAgenda ((s.loadString S cs).setAgenda ts) := by
  have honly := s.setChars_only S (writeCells (s.chars S) 0 cs)
  rw [loadTurns, List.append_assoc, runAgenda_stringTurns hS _ cs hb (by omega)]
  exact runAgenda_host (congrArg Except.ok
    (hostRegWrite_length_setAgenda ts hr (honly.busy.trans hb) (by rw [honly.cfg]; exact hlen)))

/-! ### The four strings in place -/

/-- The buffer `S` and its length register hold the string `cs`. -/
structure HoldsString (s : State) (S : Space) (cs : List CharCell) : Prop where
  len : (s.len S).toNat = cs.length
  chars : Holds (s.chars S) cs

theorem holds_writeCells (m : Cells 16) (cs : List CharCell) : Holds (writeCells m 0 cs) cs := by
  intro i hi
  have hread := readCell_writeCells_inside m 0 cs hi
  rwa [Nat.zero_add] at hread

theorem holdsString_loadString (s : State) {S : Space} {cs : List CharCell} (hS : S ≠ .omem)
    (hlen : cs.length < 2 ^ 32) : HoldsString (s.loadString S cs) S cs := by
  have hlength : (BitVec.ofNat 32 cs.length).toNat = cs.length := Nat.mod_eq_of_lt hlen
  cases S with
  | dmem => exact ⟨hlength, holds_writeCells _ cs⟩
  | kmem k => cases k <;> exact ⟨hlength, holds_writeCells _ cs⟩
  | omem => exact absurd rfl hS

theorem State.chars_setLen (s : State) (S S' : Space) (v : BitVec 32) : (s.setLen S' v).chars S = s.chars S := by
  have hk (k k' : KeySel) : kmem (s.setKlen k' v) k = kmem s k := kmem_congr s (by simp) (by simp) (by simp) k
  cases S' with
  | dmem | omem => cases S <;> rfl
  | kmem k' =>
    cases S with
    | kmem k => exact hk k k'
    | dmem | omem => cases k' <;> rfl

theorem State.len_setChars (s : State) (S S' : Space) (m : Cells 16) : (s.setChars S' m).len S = s.len S := by
  have hk (k k' : KeySel) : klen (s.setKmem k' m) k = klen s k := klen_congr s (by simp) (by simp) (by simp) k
  cases S' with
  | dmem | omem => cases S <;> rfl
  | kmem k' =>
    cases S with
    | kmem k => exact hk k k'
    | dmem | omem => cases k' <;> rfl

theorem State.chars_setChars_other (s : State) {S S' : Space} (hS : S ≠ S') (m : Cells 16) :
    (s.setChars S' m).chars S = s.chars S := by
  cases S' with
  | omem => rfl
  | dmem =>
    cases S with
    | dmem => exact absurd rfl hS
    | kmem k | omem => rfl
  | kmem k' =>
    cases S with
    | kmem k => exact kmem_setKmem_other s m fun hk => hS (congrArg _ hk)
    | dmem | omem => cases k' <;> rfl

theorem State.len_setLen_other (s : State) {S S' : Space} (hS : S ≠ S') (v : BitVec 32) :
    (s.setLen S' v).len S = s.len S := by
  cases S' with
  | omem => rfl
  | dmem =>
    cases S with
    | dmem => exact absurd rfl hS
    | kmem k | omem => rfl
  | kmem k' =>
    cases S with
    | kmem k => exact klen_setKlen_other s v fun hk => hS (congrArg _ hk)
    | dmem | omem => cases k' <;> rfl

/-- The load of another string does not touch this one. -/
theorem HoldsString.loadString {s : State} {S S' : Space} {cs : List CharCell} (h : HoldsString s S cs) (hS : S ≠ S')
    (cs' : List CharCell) : HoldsString (s.loadString S' cs') S cs where
  len := by rw [State.loadString, State.len_setLen_other _ hS, State.len_setChars, h.len]
  chars := by
    rw [State.loadString, State.chars_setLen, State.chars_setChars_other _ hS]
    exact h.chars

/-- The four loads of a call, one after the other (20_memory.md R60, phase "load"). -/
def State.loadCall (s : State) (data key1 key2 key3 : List CharCell) : State :=
  (((s.loadString .dmem data).loadString (.kmem .key1) key1).loadString (.kmem .key2) key2).loadString
    (.kmem .key3) key3

theorem State.loadCall_only (s : State) (data key1 key2 key3 : List CharCell) :
    OnlyLoads s (s.loadCall data key1 key2 key3) :=
  (((s.loadString_only .dmem data).trans (loadString_only _ (.kmem .key1) key1)).trans
    (loadString_only _ (.kmem .key2) key2)).trans (loadString_only _ (.kmem .key3) key3)

section
variable {s : State} {data key1 key2 key3 : List CharCell} (hdata : data.length ≤ s.cfg.maxd)
  (h1 : key1.length ≤ s.cfg.maxk) (h2 : key2.length ≤ s.cfg.maxk) (h3 : key3.length ≤ s.cfg.maxk)
include hdata h1 h2 h3

theorem loaded_loadCall (hcfg : s.cfg.wf) : Loaded (s.loadCall data key1 key2 key3) data key1 key2 key3 := by
  obtain ⟨⟨-, hmaxd⟩, ⟨-, hmaxk⟩, -⟩ := hcfg
  have hd := holdsString_loadString s (S := .dmem) (cs := data) (by decide) (by omega)
  have hd := hd.loadString (S' := .kmem .key1) (by decide) key1
  have hk1 := holdsString_loadString (s.loadString .dmem data) (S := .kmem .key1) (cs := key1) (by decide) (by omega)
  have hd := hd.loadString (S' := .kmem .key2) (by decide) key2
  have hk1 := hk1.loadString (S' := .kmem .key2) (by decide) key2
  have hk2 := holdsString_loadString ((s.loadString .dmem data).loadString (.kmem .key1) key1) (S := .kmem .key2)
    (cs := key2) (by decide) (by omega)
  have hd := hd.loadString (S' := .kmem .key3) (by decide) key3
  have hk1 := hk1.loadString (S' := .kmem .key3) (by decide) key3
  have hk2 := hk2.loadString (S' := .kmem .key3) (by decide) key3
  have hk3 := holdsString_loadString (((s.loadString .dmem data).loadString (.kmem .key1) key1).loadString
    (.kmem .key2) key2) (S := .kmem .key3) (cs := key3) (by decide) (by omega)
  exact ⟨hd.len, hk1.len, hk2.len, hk3.len, hd.chars, hk1.chars, hk2.chars, hk3.chars⟩

/-- The turns of a call up to the issue of `CASC`. -/
theorem runAgenda_callTurns (hb : s.busy = false) : runAgenda (s.setAgenda (callTurns data key1 key2 key3)) =
    runAgenda ((s.loadCall data key1 key2 key3).setAgenda (commandTurns .casc)) := by
  have o1 := s.loadString_only .dmem data
  have o2 := o1.trans (State.loadString_only _ (.kmem .key1) key1)
  have o3 := o2.trans (State.loadString_only _ (.kmem .key2) key2)
  rw [callTurns, List.append_assoc, List.append_assoc, List.append_assoc,
    runAgenda_loadTurns (S := .dmem) (r := 0x03) (by decide) rfl hb hdata,
    runAgenda_loadTurns (S := .kmem .key1) (r := 0x04) (by decide) rfl (o1.busy.trans hb) (by rw [o1.cfg]; exact h1),
    runAgenda_loadTurns (S := .kmem .key2) (r := 0x05) (by decide) rfl (o2.busy.trans hb) (by rw [o2.cfg]; exact h2),
    runAgenda_loadTurns (S := .kmem .key3) (r := 0x06) (by decide) rfl (o3.busy.trans hb) (by rw [o3.cfg]; exact h3),
    State.loadCall]

end

/-! ### The run of `CASC` (20_memory.md R60, phases "issue" and "wait") -/

/-- `CASC` overwrites `OLEN` without looking at it. -/
theorem exec_casc_setOlen (s : State) (v : BitVec 32) : exec .casc (s.setOlen v) = exec .casc s := by
  have hblocks := foldlM_map (cascadeIgnores_setOlen v).cascBlock (List.range (ceil4 s.dlen.toNat)) s
  rw [exec_eq_toOutcome_complete, exec_eq_toOutcome_complete, complete, complete, runCascade, runCascade,
    State.setOlen_dlen, hblocks]
  cases (List.range (ceil4 s.dlen.toNat)).foldlM cascBlock s <;> rfl

/-- A line holding a command issues it, waits for its completion and reads `STATUS` (30_encoding.md R77). -/
theorem runAgenda_commandTurns {s t : State} {i : Instr} (hwf : WellFormed i = true) (hb : s.busy = false)
    (herr : s.err = false) (hpre : issueError s i = none)
    (h : exec i ((accept (cmdValue (encode i)) s).setAgenda [.host (.regRead 0x01)]) = .next t) :
    runAgenda (s.setAgenda (commandTurns i)) = .next ((t.setReply (regValue t .status)).setAgenda []) := by
  have hd : decode (cmdValue (encode i)) = .ok i := decode_encode hwf
  have hissue (ts : List Turn) : hostMove (.regWrite 0x00 (cmdValue (encode i))) (s.setAgenda ts) =
      .ok ((accept (cmdValue (encode i)) s).setAgenda ts) := by
    rw [hostMove, hostRegWrite_of_mapped (s := s.setAgenda ts) (r := .cmd) hb rfl, writeReg,
      issue_of_accepted (s := s.setAgenda ts) herr hd ((issueError_congr rfl rfl i).trans hpre)]
    rfl
  obtain ⟨-, -, -, -, -, -, hagenda, -⟩ := exec_keeps_inputs h
  have hlast : t = t.setAgenda [.host (.regRead 0x01)] := congrArg t.setAgenda hagenda
  have hread : hostMove (.regRead 0x01) (t.setAgenda []) = .ok ((t.setReply (regValue t .status)).setAgenda []) :=
    congrArg Except.ok (hostRegRead_of_settled (s := t.setAgenda []) (r := .status) rfl (.inr rfl))
  rw [commandTurns, runAgenda_host (hissue _), runAgenda_engine (accept_busy s _) (decode_latched hd) h hagenda, hlast,
    runAgenda_host hread, runAgenda_nil, ← hlast]

/-- Reading a string's cells in ascending order gives the string. -/
theorem mapM_range_eq_some {α : Type} {f : Nat → Option α} {l : List α}
    (h : ∀ j, (hj : j < l.length) → f j = some l[j]) : (List.range l.length).mapM f = some l := by
  have hprefix : ∀ n ≤ l.length, (List.range n).mapM f = some (l.take n) := by
    intro n hn
    induction n with
    | zero => rfl
    | succ n ih =>
      rw [List.range_succ, List.mapM_append, ih (by omega), List.mapM_cons, h n hn, List.take_succ_eq_append_getElem hn]
      rfl
  simpa using hprefix l.length le_rfl

theorem callResult_eq_some {s : State} {l : List DigitCell} (hb : s.busy = false) (hd : s.done = true)
    (he : s.err = false) (holen : s.olen.toNat = l.length)
    (h : ∀ j, (hj : j < l.length) → readCell s.omem j = some l[j]) : callResult s = some l := by
  simp only [callResult, hb, hd, he, holen]
  exact mapM_range_eq_some h

/-- The keys and the plaintext of a loaded engine have legal lengths, and with no output yet `OLEN` is legal too. -/
theorem lengthsLegal_of_loaded {s : State} {data key1 key2 key3 : List CharCell} (h : Loaded s data key1 key2 key3)
    (hdata : data.length ≤ s.cfg.maxd) (h1 : key1.length ≤ s.cfg.maxk) (h2 : key2.length ≤ s.cfg.maxk)
    (h3 : key3.length ≤ s.cfg.maxk) (holen : s.olen = 0) : LengthsLegal s :=
  ⟨h.dlen ▸ hdata, h.k1len ▸ h1, h.k2len ▸ h2, h.k3len ▸ h3, by simp [holen], by simp [holen]⟩

theorem Loaded.congr {s t : State} {data key1 key2 key3 : List CharCell} (h : Loaded s data key1 key2 key3)
    (hsame : t = { s with busy := t.busy, done := t.done, cmdl := t.cmdl, olen := t.olen, agenda := t.agenda }) :
    Loaded t data key1 key2 key3 := by
  rw [hsame]
  exact ⟨h.dlen, h.k1len, h.k2len, h.k3len, h.dmem, h.k1mem, h.k2mem, h.k3mem⟩

section
variable {s : State} {data key1 key2 key3 : List CharCell} (hdata : data.length ≤ s.cfg.maxd)
  (h1 : key1.length ≤ s.cfg.maxk) (h2 : key2.length ≤ s.cfg.maxk) (h3 : key3.length ≤ s.cfg.maxk)
include hdata h1 h2 h3

/-- `CASC` on loaded buffers whatever `OLEN` was: it completes with the string of the result in `OMEM`. -/
theorem exec_casc_of_loaded_lengths (h : Loaded s data key1 key2 key3) :
    ∃ t, exec .casc s = .next t ∧ t.err = s.err ∧ t.olen = BitVec.ofNat 32 (16 * ceil4 data.length) ∧
      ∀ j, (hj : j < (cascade s.cfg.tables data key1 key2 key3).length) →
        readCell t.omem j = some (cascade s.cfg.tables data key1 key2 key3)[j] := by
  have hzero : Loaded (s.setOlen 0) data key1 key2 key3 := h.congr rfl
  have hlegal : LengthsLegal (s.setOlen 0) := lengthsLegal_of_loaded hzero hdata h1 h2 h3 rfl
  obtain ⟨t, ht, hframe, hdigits, -⟩ := cascComputesCascade (s.setOlen 0) data key1 key2 key3 hzero hlegal
  rw [exec_casc_setOlen] at ht
  exact ⟨t, ht, by rw [hframe]; rfl, by rw [hframe], hdigits⟩

end

/-- Settles O53: the loads put the strings in place (`loaded_loadCall`), the issue accepts `CASC`, which leaves the
result (`exec_casc_of_loaded_lengths`), and the read of `STATUS` changes none of it. -/
theorem callReturnsCascade : Obligations.CallReturnsCascade := by
  unfold Obligations.CallReturnsCascade
  intro s data key1 key2 key3 hcfg hb herr hdata h1 h2 h3
  have honly := s.loadCall_only data key1 key2 key3
  have hloaded := loaded_loadCall hdata h1 h2 h3 hcfg
  have hrun := runAgenda_callTurns hdata h1 h2 h3 hb
  generalize s.loadCall data key1 key2 key3 = u at honly hloaded hrun
  have hcap : ceil4 data.length ≤ ceil4 u.cfg.maxd := by
    rw [honly.cfg, ceil4, ceil4]
    omega
  rw [← honly.cfg] at hcfg hdata h1 h2 h3
  obtain ⟨t, ht, hterr, holen, hdigits⟩ := exec_casc_of_loaded_lengths
    (s := (accept (cmdValue (encode .casc)) u).setAgenda [.host (.regRead 0x01)]) hdata h1 h2 h3 (hloaded.congr rfl)
  obtain ⟨hbusy, hdone⟩ := exec_next_finished ht
  refine ⟨_, hrun.trans (runAgenda_commandTurns rfl (honly.busy.trans hb) (honly.err.trans herr) rfl ht), ?_⟩
  rw [← honly.cfg]
  refine callResult_eq_some hbusy hdone (hterr.trans (honly.err.trans herr)) ?_ hdigits
  rw [cascadeLength, State.setAgenda_olen, State.setReply_olen, holen]
  exact toNat_blocks hcfg hcap

end Sys2Proof.Machine
